-- ==== Sys2Proof/Word.lean ====
section
/-! DEFINITION. The word types of the Streebog core (`00_scope.md` R9, `20_memory.md` R29). Only the types stand here:
the byte and limb views are in `Machine/Bytes.lean`, the adder in `Machine/Adder.lean`. -/

namespace Sys2Proof

/-- One byte, a lane of `cmd_data`, a cell of the staging buffer, or a byte of a Word512. -/
abbrev Byte := BitVec 8

/-- One 64-bit limb of a Word512 (`00_scope.md` section 4). -/
abbrev Limb := BitVec 64

/-- The 512-bit unsigned value of `20_memory.md` R29: bit 0 is the least significant. -/
abbrev Word512 := BitVec 512

/-- The 32-bit command word of the port `cmd_word` (`30_encoding.md` R46). -/
abbrev CmdWord := BitVec 32

end Sys2Proof
end

