-- ==== Sys2Proof/Machine/Bytes.lean ====
section
/-! DEFINITION. The byte view and the limb view of a Word512 and the two conversions of `40_word_adder.md` R56, all
little-endian (`20_memory.md` R29). Byte order is decided here and nowhere else. -/

namespace Sys2Proof.Machine

/-- `w.byte(j) = w[8j+7:8j]`; byte 0 is the least significant (`20_memory.md` R29). -/
def byte (w : Word512) (j : Nat) : Byte := w.extractLsb' (8 * j) 8

/-- `w.limb(i) = w[64i+63:64i]`; limb 0 is the least significant (`20_memory.md` R29). -/
def limb (w : Word512) (i : Nat) : Limb := w.extractLsb' (64 * i) 64

/-- The value of lanes 0 to k-1, lane j being byte j; the lanes above are zero. -/
def joinBytes (lane : Nat → Byte) : Nat → Word512
  | 0 => 0
  | k + 1 => joinBytes lane k ||| ((lane k).setWidth 512 <<< (8 * k))

/-- The value of limbs 0 to k-1, the limbs above being zero. -/
def joinLimbs (lane : Nat → Limb) : Nat → Word512
  | 0 => 0
  | k + 1 => joinLimbs lane k ||| ((lane k).setWidth 512 <<< (64 * k))

/-- `Word512(b0..b63)` for lanes given as a function of the byte index (`00_scope.md` section 4). -/
def ofByteLanes (lane : Nat → Byte) : Word512 := joinBytes lane 64

/-- The Word512 with the given eight limbs, limb 0 first (`40_word_adder.md` R56). -/
def ofLimbLanes (lane : Nat → Limb) : Word512 := joinLimbs lane 8

/-- `from_bytes` of `40_word_adder.md` R56: a message block read as a Word512, its first byte least significant
(`20_memory.md` R30). -/
def fromBytes (b : Vector Byte 64) : Word512 := ofByteLanes fun j => b.getD j 0

/-- `to_bytes` of `40_word_adder.md` R56. -/
def toBytes (w : Word512) : Vector Byte 64 := Vector.ofFn fun j => byte w j

/-- `from_limbs` of `40_word_adder.md` R56. -/
def fromLimbs (l : Vector Limb 8) : Word512 := ofLimbLanes fun i => l.getD i 0

/-- `limbs` of `40_word_adder.md` R56. -/
def toLimbs (w : Word512) : Vector Limb 8 := Vector.ofFn fun i => limb w i

/-- The Word256 of `40_word_adder.md` R57, `w[511:256]`: the upper half, limbs 4 to 7, bytes 32 to 63. -/
def upperHalf (w : Word512) : BitVec 256 := w.extractLsb' 256 256

end Sys2Proof.Machine
end

