-- ==== Sys2Proof/Syntax.lean ====
section
/-! DEFINITION. The commands of the core: one constructor per row of `spec/opcode_table.json` (`30_encoding.md` R51). -/

namespace Sys2Proof

/-- A command with its operands (`30_encoding.md` R50). The data of a transfer belongs to the command that reads it
(`20_memory.md` R31), so only ABSORB carries one. -/
inductive Instr where
  /-- INIT: W = 1 selects the 256-bit digest, W = 0 the 512-bit digest (`30_encoding.md` R47). -/
  | init (w256 : Bool)
  /-- ABSORB: the byte count LEN, and the 64 lanes of `cmd_data`, of which lanes LEN to 63 are ignored (`30_encoding.md`
  R48). -/
  | absorb (len : BitVec 7) (data : Word512)
  /-- FINALIZE: no operand (`30_encoding.md` R49). -/
  | finalize
  deriving DecidableEq, Repr

end Sys2Proof
end

