-- ==== Sys2Proof/Machine/Operands.lean ====
section
/-! DEFINITION. The operand that is not a field of the command word: the message bytes in the lanes of `cmd_data`
(`20_memory.md` R31, `30_encoding.md` R50). -/

namespace Sys2Proof.Machine

/-- `D[j] = cmd_data.byte(j)`, message byte j of an ABSORB when j < LEN (`20_memory.md` R31). -/
def messageByte (data : Word512) (j : Nat) : Byte := byte data j

/-- `D[0], ..., D[LEN-1]`, in message order; lanes LEN to 63 are ignored (`20_memory.md` R31). -/
def messageBytes (len : BitVec 7) (data : Word512) : List Byte :=
  (List.range len.toNat).map (messageByte data)

/-- The message bytes a sequence of commands carries, in order: those of its ABSORBs (`42_context_commands.md` R97). -/
def message : List Instr → List Byte
  | [] => []
  | .absorb len data :: rest => messageBytes len data ++ message rest
  | .init _ :: rest => message rest
  | .finalize :: rest => message rest

end Sys2Proof.Machine
end

