-- ==== Sys2Proof/WellFormed.lean ====
section
/-! DEFINITION. Which commands have an encoding that decodes to them: the extra condition LEN at most 64 of ABSORB
(`30_encoding.md` R51) is the one condition the fields' widths do not already give. -/

namespace Sys2Proof

/-- LEN is a legal byte count, 0 to 64 (`30_encoding.md` R48). -/
def lenLegal (len : BitVec 7) : Bool := decide (len.toNat ≤ 64)

/-- Every check of the command holds. -/
def Instr.wellFormed : Instr → Bool
  | .init _ => true
  | .absorb len _ => lenLegal len
  | .finalize => true

end Sys2Proof
end

