-- ==== Sys2Proof/Decode.lean ====
section
/-! DEFINITION. The command decoder of `30_encoding.md` R46 to R53, total on every 32-bit word and 512-bit data value,
rejecting an illegal word by the name of its misuse; and after it the encoder. -/

namespace Sys2Proof

/-- The misuse causes of `60_exceptions.md` R106. The decoder names the first three, the phase check the last two. -/
inductive Misuse where
  /-- ILLEGAL_OPCODE: `cmd_word[3:0]` is 0x0 or 0x4 to 0xF. -/
  | illegalOpcode
  /-- RESERVED_NONZERO: a reserved bit of the format is 1. -/
  | reservedNonzero
  /-- BAD_LENGTH: LEN is 65 to 127. -/
  | badLength
  /-- NO_CONTEXT: ABSORB or FINALIZE in IDLE. -/
  | noContext
  /-- CONSUMED: ABSORB or FINALIZE in DONE. -/
  | consumed
  deriving DecidableEq, Repr

/-- The code that the fault step writes to CAUSE (`60_exceptions.md` R106). -/
def Misuse.code : Misuse → BitVec 4
  | .illegalOpcode => 1
  | .reservedNonzero => 2
  | .badLength => 3
  | .noContext => 4
  | .consumed => 5

/-- OP = `cmd_word[3:0]` (`30_encoding.md` R46). -/
def opField (word : CmdWord) : BitVec 4 := word.extractLsb' 0 4

/-- W = `cmd_word[4]` (`30_encoding.md` R50). -/
def wField (word : CmdWord) : Bool := word.getLsbD 4

/-- LEN = `cmd_word[10:4]`, unsigned (`30_encoding.md` R50). -/
def lenField (word : CmdWord) : BitVec 7 := word.extractLsb' 4 7

/-- The reserved bits `cmd_word[31:5]` of format I (`30_encoding.md` R47). -/
def reservedI (word : CmdWord) : BitVec 27 := word.extractLsb' 5 27

/-- The reserved bits `cmd_word[31:11]` of format A (`30_encoding.md` R48). -/
def reservedA (word : CmdWord) : BitVec 21 := word.extractLsb' 11 21

/-- The reserved bits `cmd_word[31:4]` of format F (`30_encoding.md` R49). -/
def reservedF (word : CmdWord) : BitVec 28 := word.extractLsb' 4 28

/-- The command of one transfer, or the misuse that makes its word illegal, the lowest code first (`30_encoding.md` R51,
R52). -/
def decode (word : CmdWord) (data : Word512) : Except Misuse Instr :=
  if opField word = 1 then
    if reservedI word = 0 then .ok (.init (wField word)) else .error .reservedNonzero
  else if opField word = 2 then
    if reservedA word = 0 then
      if lenLegal (lenField word) then .ok (.absorb (lenField word) data) else .error .badLength
    else .error .reservedNonzero
  else if opField word = 3 then
    if reservedF word = 0 then .ok .finalize else .error .reservedNonzero
  else .error .illegalOpcode

/-- The command word of a command (`30_encoding.md` R47 to R49). -/
def encodeWord : Instr → CmdWord
  | .init w256 => 0x00000001#32 ||| ((BitVec.ofBool w256).setWidth 32 <<< 4)
  | .absorb len _ => 0x00000002#32 ||| (len.setWidth 32 <<< 4)
  | .finalize => 0x00000003

/-- The data sent beside the command word; INIT and FINALIZE ignore it (`20_memory.md` R31), and the encoder sends
zero. -/
def encodeData : Instr → Word512
  | .init _ => 0
  | .absorb _ data => data
  | .finalize => 0

/-- One transfer of the command channel: the command word and the data (`30_encoding.md` R46). -/
def encode (i : Instr) : CmdWord × Word512 := (encodeWord i, encodeData i)

/-- The transfer whose bits are w, of which nbits are given and the rest are 0: the command word is bits 31 to 0, and
`cmd_data` counts on from bit 32. Log entry 2. -/
def transferOf (nbits w : Nat) : CmdWord × Word512 :=
  (BitVec.ofNat 32 (w % 2 ^ nbits), BitVec.ofNat 512 (w % 2 ^ nbits / 2 ^ 32))

/-- What the decoder reads from a transfer numbered as `spec/opcode_table.json` numbers bits; none where it rejects the
word. -/
def decodeTableWord (nbits w : Nat) : Option Instr :=
  match decode (transferOf nbits w).1 (transferOf nbits w).2 with
  | .ok i => some i
  | .error _ => none

end Sys2Proof
end

