-- ==== Sys2Proof/Machine/Adder.lean ====
section
/-! DEFINITION. ADD512, the 512-bit modular adder (`40_word_adder.md` R58 to R64): the function the commands apply, and the
limb form and the byte form that must give the same value (R62). -/

namespace Sys2Proof.Machine

/-- ADD512: `(x + y) mod 2^512`, the carry out discarded (`40_word_adder.md` R58, R63). -/
def add512 (x y : Word512) : Word512 := x + y

/-- The exact sum of two limbs and a carry, at most 65 bits (`40_word_adder.md` R59). -/
def limbSum (x y : Limb) (carry : Nat) : Nat := x.toNat + y.toNat + carry

/-- The carry into limb i: 0 for limb 0, else bit 64 of the exact sum of limb i-1 (`40_word_adder.md` R59;
`90_conflicts.md` C1). -/
def limbCarry (x y : Word512) : Nat → Nat
  | 0 => 0
  | i + 1 => limbSum (limb x i) (limb y i) (limbCarry x y i) / 2 ^ 64

/-- The limb form of ADD512 (`40_word_adder.md` R59); the carry out of limb 7 is discarded. -/
def addByLimbs (x y : Word512) : Word512 :=
  ofLimbLanes fun i => BitVec.ofNat 64 (limbSum (limb x i) (limb y i) (limbCarry x y i))

/-- The accumulator after byte j-1 (0 before byte 0); its bits above bit 7 carry into byte j (`40_word_adder.md` R61). -/
def byteAcc (x y : Word512) : Nat → Nat
  | 0 => 0
  | j + 1 => (byte x j).toNat + (byte y j).toNat + byteAcc x y j / 2 ^ 8

/-- The byte form of ADD512 (`40_word_adder.md` R61); what the accumulator holds above bit 7 after byte 63 is
discarded. -/
def addByBytes (x y : Word512) : Word512 :=
  ofByteLanes fun j => BitVec.ofNat 8 (byteAcc x y (j + 1))

end Sys2Proof.Machine
end

