-- ==== Sys2Proof/Machine/Compression.lean ====
section
/-! DEFINITION. The compression function g and its primitives X, S, P, L and LPSX (`41_compression_g.md` R65 to R75). -/

namespace Sys2Proof.Machine

/-- X: bitwise exclusive or with a key (`41_compression_g.md` R65). -/
def xorKey (k a : Word512) : Word512 := k ^^^ a

/-- S: every byte through PI (`41_compression_g.md` R66). -/
def substitute (a : Word512) : Word512 := ofByteLanes fun j => sbox (byte a j)

/-- P: byte j of the result is byte `TAU[j]` of the operand (`41_compression_g.md` R67). -/
def permute (a : Word512) : Word512 := ofByteLanes fun j => byte a (tau j)

/-- The exclusive or of the rows whose bit of v is 1, the first row taking bit k-1 and each later row the next bit
down. -/
def linearRows (v : Limb) : List Limb → Nat → Limb
  | row :: rows, k + 1 => (if v.getLsbD k then row else 0) ^^^ linearRows v rows k
  | _, _ => 0

/-- l: row `A[b]` is taken when bit 63 - b of v is 1 (`41_compression_g.md` R68). -/
def linearLimb (v : Limb) : Limb := linearRows v matrixRows 64

/-- L: every limb through l (`41_compression_g.md` R68). -/
def linear (a : Word512) : Word512 := ofLimbLanes fun i => linearLimb (limb a i)

/-- LPSX(k, a) = L(P(S(k xor a))) (`41_compression_g.md` R69). -/
def lpsx (k a : Word512) : Word512 := linear (permute (substitute (xorKey k a)))

/-- The inner rounds: each takes its constant into the key and then the new key into the state (`41_compression_g.md` R70,
R71). The pair is K and s of `10_state.md` R27. -/
def gRounds : List Word512 → Word512 → Word512 → Word512 × Word512
  | [], key, st => (key, st)
  | c :: cs, key, st => gRounds cs (lpsx key c) (lpsx (lpsx key c) st)

/-- E from the first key K1: s1, eleven rounds with `C[0]` to `C[10]`, the last key with `C[11]`, and a plain exclusive or
(`41_compression_g.md` R71; `90_conflicts.md` C6). -/
def transformE (k1 m : Word512) : Word512 :=
  let ks := gRounds innerConstants k1 (lpsx k1 m)
  lpsx ks.1 lastConstant ^^^ ks.2

/-- g(h, n, m) = (E xor h) xor m (`41_compression_g.md` R72). -/
def g (h n m : Word512) : Word512 := (transformE (lpsx h n) m ^^^ h) ^^^ m

end Sys2Proof.Machine
end

