-- ==== Sys2Proof/Machine/State.lean ====
section
/-! DEFINITION. The state of the core (`10_state.md` R10 to R16), its reset value (`70_reset_and_hazards.md` R122), what the
host sends it, and the reasons a step can stop. -/

namespace Sys2Proof.Machine

/-- The four values of PHASE (`10_state.md` R14). -/
inductive Phase where
  /-- No context since reset. -/
  | idle
  /-- A context is open and may absorb. -/
  | active
  /-- The context has been finalized and is consumed; the digest is valid. -/
  | done
  /-- A misuse fault has been taken. -/
  | fault
  deriving DecidableEq, Repr

/-- What the host does to the core, in the order the core takes it (`70_reset_and_hazards.md` R130). Reading `status` or
`digest` is not listed: it changes nothing (`20_memory.md` R36). -/
inductive HostInput where
  /-- A reset pulse of at least RST_CYCLES edges (`70_reset_and_hazards.md` R121). -/
  | reset
  /-- One accepted transfer of the command channel (`10_state.md` R23). -/
  | command (word : CmdWord) (data : Word512)
  deriving DecidableEq, Repr

/-- The input ports at one rising edge of `clk` (`10_state.md` R22). -/
structure Pins where
  /-- Synchronous reset, active high. -/
  rst : Bool
  /-- The host offers a command. -/
  cmdValid : Bool
  /-- The command word. -/
  cmdWord : CmdWord
  /-- The data of an ABSORB command, byte lane j in bits 8j+7 to 8j. -/
  cmdData : Word512
  deriving DecidableEq, Repr

/-- The state of the core. The first eight fields are the spec's registers; `busyLeft` holds its BUSY; `inputs` and `draws` are
the model's own (log entries 1, 3 and 4). -/
structure State where
  /-- The chaining value h (`10_state.md` R10). -/
  h : Word512
  /-- The counter accumulator N: bits compressed so far, mod 2^512 (`10_state.md` R10). -/
  n : Word512
  /-- The checksum accumulator Sigma (`10_state.md` R10). -/
  sigma : Word512
  /-- The staging buffer `buf[0..63]` (`10_state.md` R10). -/
  buf : Vector Byte 64
  /-- The number of valid bytes in `buf`, 0 to 63 (`10_state.md` R10, R11). -/
  fill : BitVec 6
  /-- W256: true selects the 256-bit digest (`10_state.md` R12). -/
  w256 : Bool
  /-- PHASE (`10_state.md` R14). -/
  phase : Phase
  /-- CAUSE (`10_state.md` R15). -/
  cause : BitVec 4
  /-- The clock cycles until BUSY falls; BUSY is 1 when this is not 0 (`10_state.md` R16). Log entry 3. -/
  busyLeft : Nat
  /-- What the host has sent and the core has not yet taken, oldest first (`20_memory.md` R40). Log entry 1. -/
  inputs : List HostInput
  /-- The index of the next free value. Log entry 4. -/
  draws : Nat
  deriving DecidableEq, Repr

/-- The reasons the machine itself could stop. There is none, so there is no constructor: the misuse faults of
`60_exceptions.md` R105, "the only exceptions the core raises", are next states in which PHASE is FAULT (R110), and every
command completes (`70_reset_and_hazards.md` R131). Log entry 13. -/
inductive Fault where
  deriving DecidableEq, Repr

/-- The reasons the model answers nothing. -/
inductive Refusal where
  /-- An arm of `exec` whose command has no meaning yet. No arm raises it. Safe: the model stops. -/
  | notModelled (mnemonic : String)
  /-- Raised by `clockRun` alone, never by `step` or a command: the host let `rst` fall before RST_CYCLES edges, a run that is
  not modelled (`93_implementation_defined.md` I18). Safe: the model stops. Log entry 6. -/
  | shortResetPulse
  deriving DecidableEq, Repr

/-- The state right after reset (`70_reset_and_hazards.md` R122), with no host input pending. -/
def State.reset : State where
  h := 0
  n := 0
  sigma := 0
  buf := Vector.replicate 64 0
  fill := 0
  w256 := false
  phase := .idle
  cause := 0
  busyLeft := 0
  inputs := []
  draws := 0

end Sys2Proof.Machine
end

