-- ==== Sys2Proof/Machine/Ops.lean ====
section
/-! DEFINITION. The operations the commands share: taking a misuse fault and leaving it by reset, the phase gate, writing the
staging buffer, and the block procedure COMPRESS. -/

namespace Sys2Proof.Machine

/-- The fault step: PHASE and CAUSE are written and nothing else (`60_exceptions.md` R110). There is no saved return point and
no vector. -/
def raiseMisuse (c : Misuse) (s : State) : State := { s with phase := .fault, cause := c.code }

/-- Reset, in any phase, the one way out of FAULT: every register takes its reset value and the command in progress is
discarded (`70_reset_and_hazards.md` R121, R123; `60_exceptions.md` R111). The model's own fields stay. Log entry 14. -/
def takeReset (s : State) : State := { State.reset with inputs := s.inputs, draws := s.draws }

/-- The command in progress has completed and BUSY has fallen (`70_reset_and_hazards.md` R131). Nothing changes where BUSY is
0. -/
def awaitReady (s : State) : State := { s with busyLeft := 0 }

/-- In FAULT a command is ignored and nothing changes (`60_exceptions.md` R111); otherwise the state becomes t. -/
def unlessFault (s t : State) : State := if s.phase = .fault then s else t

/-- The phase check of ABSORB and FINALIZE, which are legal in ACTIVE alone (`60_exceptions.md` R108): t is the state their
effect gives. -/
def whenActive (s t : State) : State :=
  match s.phase with
  | .idle => raiseMisuse .noContext s
  | .active => t
  | .done => raiseMisuse .consumed s
  | .fault => s

/-- The buffer with `count` bytes from position `start` on taken from src, the others unchanged: `buf[start + j] <- src j` for
j below count (`42_context_commands.md` R85, R89). -/
def writeBytes (buf : Vector Byte 64) (start count : Nat) (src : Nat → Byte) : Vector Byte 64 :=
  Vector.ofFn fun j => if start ≤ j.val ∧ j.val < start + count then src (j.val - start) else buf[j]

/-- COMPRESS(m): g with N as it was, then N grows by 512 and Sigma by the block (`42_context_commands.md` R82). -/
def compress (m : Word512) (s : State) : State :=
  { s with h := g s.h s.n m, n := add512 s.n const512, sigma := add512 s.sigma m }

end Sys2Proof.Machine
end

