-- ==== Sys2Proof/Machine/Absorb.lean ====
section
/-! DEFINITION. Format A: ABSORB (`42_context_commands.md` R85 to R88). -/

namespace Sys2Proof.Machine

/-- The second branch of the absorber: as many bytes as fit go to the buffer; a full buffer is compressed and the bytes left
over begin the next one (`42_context_commands.md` R85, R86). -/
def absorbBuffered (len : Nat) (data : Word512) (s : State) : State :=
  let f := s.fill.toNat
  let take := min (64 - f) len
  let buf := writeBytes s.buf f take (messageByte data)
  if f + take = 64 then
    { compress (fromBytes buf) s with
      buf := writeBytes buf 0 (len - take) (fun j => messageByte data (take + j))
      fill := BitVec.ofNat 6 (len - take) }
  else
    { s with buf := buf, fill := BitVec.ofNat 6 (f + take) }

/-- The pseudocode of ABSORB for LEN at most 64: a whole block on an empty buffer is compressed directly, and `buf` and `fill`
do not change (`42_context_commands.md` R85). -/
def absorbBytes (len : Nat) (data : Word512) (s : State) : State :=
  if s.fill.toNat = 0 ∧ len = 64 then compress (ofByteLanes (messageByte data)) s
  else absorbBuffered len data s

/-- ABSORB: ignored in FAULT, BAD_LENGTH for LEN 65 to 127, then the phase check, then the effect (`42_context_commands.md`
R81, R85; `60_exceptions.md` R108). -/
def execAbsorb (len : BitVec 7) (data : Word512) (s : State) : Host.Outcome State Fault Refusal :=
  .next (unlessFault s
    (if lenLegal len then whenActive s (absorbBytes len.toNat data s) else raiseMisuse .badLength s))

end Sys2Proof.Machine
end

