-- ==== Sys2Proof/Machine/Finalize.lean ====
section
/-! DEFINITION. Format F: FINALIZE (`42_context_commands.md` R89 to R91). -/

namespace Sys2Proof.Machine

/-- Step 1: the unused tail is zeroed and the first unused byte is the marker 0x01 (`42_context_commands.md` R89). -/
def padBuffer (buf : Vector Byte 64) (f : Nat) : Vector Byte 64 :=
  writeBytes (writeBytes buf f (64 - f) fun _ => 0x00) f 1 fun _ => 0x01

/-- Step 2: the bit length of the final block, `zext_512(8 * fill)` (`20_memory.md` R32, `42_context_commands.md` R89). -/
def bitLength (fill : BitVec 6) : Word512 := BitVec.ofNat 512 (8 * fill.toNat)

/-- The pseudocode of FINALIZE, steps 1 to 6 in order: the padded block, then N, then Sigma are folded into h
(`42_context_commands.md` R89, R90). -/
def finalizeContext (s : State) : State :=
  let buf := padBuffer s.buf s.fill.toNat
  let m := fromBytes buf
  let n := add512 s.n (bitLength s.fill)
  let sigma := add512 s.sigma m
  { s with
    h := g (g (g s.h s.n m) zeroWord n) zeroWord sigma
    n := n
    sigma := sigma
    buf := buf
    fill := 0
    phase := .done }

/-- FINALIZE: ignored in FAULT, then the phase check, then the effect (`42_context_commands.md` R81, R89). -/
def execFinalize (s : State) : Host.Outcome State Fault Refusal :=
  .next (unlessFault s (whenActive s (finalizeContext s)))

end Sys2Proof.Machine
end

