-- ==== Sys2Proof/Machine/Init.lean ====
section
/-! DEFINITION. Format I: INIT (`42_context_commands.md` R83, R84). -/

namespace Sys2Proof.Machine

/-- The pseudocode of INIT: a fresh context with the initial chaining value of the width (`42_context_commands.md` R83). -/
def openContext (w256 : Bool) (s : State) : State :=
  { s with
    h := if w256 then iv256 else iv512
    n := zeroWord
    sigma := zeroWord
    buf := Vector.replicate 64 0x00
    fill := 0
    w256 := w256
    phase := .active }

/-- INIT, legal in every phase but FAULT, where it is ignored (`42_context_commands.md` R81, R83). -/
def execInit (w256 : Bool) (s : State) : Host.Outcome State Fault Refusal :=
  .next (unlessFault s (openContext w256 s))

end Sys2Proof.Machine
end

