-- ==== Sys2Proof/Machine/Dispatch.lean ====
section
/-! DEFINITION. One arm per command, each one call of its meaning (`42_context_commands.md` R81). -/

namespace Sys2Proof.Machine

def exec (i : Instr) (s : State) : Host.Outcome State Fault Refusal :=
  match i with
  | .init w256 => Sys2Proof.Machine.execInit w256 s
  | .absorb len data => Sys2Proof.Machine.execAbsorb len data s
  | .finalize => Sys2Proof.Machine.execFinalize s

end Sys2Proof.Machine
end

