-- ==== Sys2Proof/Machine/Command.lean ====
section
/-! DEFINITION. The command step of `42_context_commands.md` R81 on one accepted transfer, and what the core does with each host
input, in the order of acceptance (`20_memory.md` R40). -/

namespace Sys2Proof.Machine

/-- A word that does not decode raises its misuse, unless the core is in FAULT and ignores it (`60_exceptions.md` R108,
R111). -/
def rejectWord (c : Misuse) (s : State) : Host.Outcome State Fault Refusal :=
  .next (unlessFault s (raiseMisuse c s))

/-- One accepted transfer, as one atomic step (`42_context_commands.md` R81; `70_reset_and_hazards.md` R126). -/
def acceptCommand (word : CmdWord) (data : Word512) (s : State) : Host.Outcome State Fault Refusal :=
  match decode word data with
  | .ok i => exec i s
  | .error c => rejectWord c s

/-- One host input: a reset at once, in every phase and while BUSY = 1 (`70_reset_and_hazards.md` R121, R123); a command once
BUSY has fallen (`70_reset_and_hazards.md` R127). -/
def takeInput (i : HostInput) (s : State) : Host.Outcome State Fault Refusal :=
  match i with
  | .reset => .next (takeReset s)
  | .command word data => acceptCommand word data (awaitReady s)

/-- The next host input is taken; with none pending, the core completes what is in progress and holds its state
(`42_context_commands.md` R104; `60_exceptions.md` R120). -/
def nextInput (s : State) : Host.Outcome State Fault Refusal :=
  match s.inputs with
  | [] => .next (awaitReady s)
  | i :: rest => takeInput i { s with inputs := rest }

/-- Host inputs taken in order, from the first to the last (`20_memory.md` R40). -/
def takeInputs : List HostInput → State → Host.Outcome State Fault Refusal
  | [], s => .next s
  | i :: rest, s =>
    match takeInput i s with
    | .next t => takeInputs rest t
    | .fault r => .fault r
    | .refused r => .refused r

/-- Commands run in order, from the first to the last. -/
def runCommands : List Instr → State → Host.Outcome State Fault Refusal
  | [], s => .next s
  | i :: rest, s =>
    match exec i s with
    | .next t => runCommands rest t
    | .fault r => .fault r
    | .refused r => .refused r

/-- The fault checks of one accepted command, written as `60_exceptions.md` R108 writes them: none, or the one misuse that is
recorded. `decode` and the meanings make the same checks apart; that they agree is an obligation. -/
def checkCommand (word : CmdWord) (phase : Phase) : Option Misuse :=
  let op := opField word
  if op ≠ 1 ∧ op ≠ 2 ∧ op ≠ 3 then some .illegalOpcode
  else if op = 1 ∧ reservedI word ≠ 0 then some .reservedNonzero
  else if op = 2 ∧ reservedA word ≠ 0 then some .reservedNonzero
  else if op = 3 ∧ reservedF word ≠ 0 then some .reservedNonzero
  else if op = 2 ∧ 64 < (lenField word).toNat then some .badLength
  else if (op = 2 ∨ op = 3) ∧ phase = .idle then some .noContext
  else if (op = 2 ∨ op = 3) ∧ phase = .done then some .consumed
  else none

end Sys2Proof.Machine
end

