-- ==== Sys2Proof/Machine/Step.lean ====
section
/-! DEFINITION. One step of the core: the next host input, as one atomic transition (`70_reset_and_hazards.md` R126). -/

namespace Sys2Proof.Machine

/-- One step: the core takes the next host input (`42_context_commands.md` R81). It fetches nothing (`10_state.md` R25). -/
def step (s : State) : Host.Outcome State Fault Refusal := nextInput s

/-- The state in which the host's next input is the transfer whose bits are w, so that the next step takes exactly it. Log
entry 2. -/
def State.withFetchWord (s : State) (nbits w : Nat) : State :=
  { s with inputs := .command (transferOf nbits w).1 (transferOf nbits w).2 :: s.inputs }

end Sys2Proof.Machine
end

