-- ==== Sys2Proof/Machine/Assembler.lean ====
section
/-! DEFINITION. The assembler forms of `30_encoding.md` R54 that are not a plain constructor, and the pseudo-command ABSORBN of
R55. -/

namespace Sys2Proof.Machine

/-- `ABSORB n, <hex>`: LEN = n, the bytes in lanes 0 to n-1, and zero in lanes n to 63 (`30_encoding.md` R54). -/
def absorbOf (bytes : List Byte) : Instr :=
  .absorb (BitVec.ofNat 7 bytes.length) (ofByteLanes fun j => bytes.getD j 0)

/-- `.word`: a raw command word with `cmd_data` zero (`30_encoding.md` R54). -/
def rawWord (word : CmdWord) : HostInput := .command word 0

/-- `ABSORBN`: one `ABSORB 64` per whole 64-byte chunk, then one ABSORB of the rest if there is a rest (`30_encoding.md`
R55). -/
def absorbN (bytes : List Byte) : List Instr :=
  (List.range (bytes.length / 64)).map (fun k => absorbOf ((bytes.drop (64 * k)).take 64)) ++
    if bytes.length % 64 = 0 then [] else [absorbOf (bytes.drop (64 * (bytes.length / 64)))]

end Sys2Proof.Machine
end

