-- ==== Sys2Proof/Machine/Work.lean ====
section
/-! DEFINITION. The work of a command (`70_reset_and_hazards.md` R133): twins of the datapath functions that count the LPSX
applications and the g calls they make. Each twin's first part is the plain function, which is an obligation. -/

namespace Sys2Proof.Machine

/-- LPSX with a count of its applications. -/
def lpsxCounted (k a : Word512) (c : Nat) : Word512 × Nat := (lpsx k a, c + 1)

/-- The inner rounds of g with the count of LPSX applications. -/
def gRoundsCounted : List Word512 → Word512 → Word512 → Nat → (Word512 × Word512) × Nat
  | [], key, st, c => ((key, st), c)
  | r :: rs, key, st, c =>
    let key' := lpsxCounted key r c
    let st' := lpsxCounted key'.1 st key'.2
    gRoundsCounted rs key'.1 st'.1 st'.2

/-- g with the count of LPSX applications. -/
def gCounted (h n m : Word512) (c : Nat) : Word512 × Nat :=
  let k1 := lpsxCounted h n c
  let s1 := lpsxCounted k1.1 m k1.2
  let ks := gRoundsCounted innerConstants k1.1 s1.1 s1.2
  let k13 := lpsxCounted ks.1.1 lastConstant ks.2
  (((k13.1 ^^^ ks.1.2) ^^^ h) ^^^ m, k13.2)

/-- g with a count of its calls. -/
def gCall (h n m : Word512) (c : Nat) : Word512 × Nat := (g h n m, c + 1)

/-- COMPRESS with the count of g calls. -/
def compressCounted (m : Word512) (s : State) (c : Nat) : State × Nat :=
  let r := gCall s.h s.n m c
  ({ s with h := r.1, n := add512 s.n const512, sigma := add512 s.sigma m }, r.2)

/-- ABSORB's effect with the count of g calls (`42_context_commands.md` R85). -/
def absorbCounted (len : Nat) (data : Word512) (s : State) (c : Nat) : State × Nat :=
  let f := s.fill.toNat
  if f = 0 ∧ len = 64 then compressCounted (ofByteLanes (messageByte data)) s c
  else
    let take := min (64 - f) len
    let buf := writeBytes s.buf f take (messageByte data)
    if f + take = 64 then
      let r := compressCounted (fromBytes buf) s c
      ({ r.1 with
        buf := writeBytes buf 0 (len - take) (fun j => messageByte data (take + j))
        fill := BitVec.ofNat 6 (len - take) }, r.2)
    else ({ s with buf := buf, fill := BitVec.ofNat 6 (f + take) }, c)

/-- FINALIZE's effect with the count of g calls (`42_context_commands.md` R89). -/
def finalizeCounted (s : State) (c : Nat) : State × Nat :=
  let buf := padBuffer s.buf s.fill.toNat
  let m := fromBytes buf
  let n := add512 s.n (bitLength s.fill)
  let sigma := add512 s.sigma m
  let r1 := gCall s.h s.n m c
  let r2 := gCall r1.1 zeroWord n r1.2
  let r3 := gCall r2.1 zeroWord sigma r2.2
  ({ s with h := r3.1, n := n, sigma := sigma, buf := buf, fill := 0, phase := .done }, r3.2)

end Sys2Proof.Machine
end

