-- ==== Sys2Proof/Config.lean ====
section
/-! DEFINITION. What the spec leaves OPEN (`00_scope.md` R9) and the free values. Each is a constant without a body, so
nothing in Lean can prove a value of it: a statement about one holds for every value. -/

namespace Sys2Proof

/-- The cycles beyond the first that BUSY stays 1 for one accepted command (`70_reset_and_hazards.md` R132): by the
command word, its data, and the index of the acceptance, because the latency "may differ between implementations and,
within one implementation, with the data". Log entry 3. -/
opaque Config.extraLatency : CmdWord → Word512 → Nat → Nat

/-- The cycles from acceptance to the fall of BUSY: LAT_INIT, LAT_ABSORB, LAT_FINALIZE and the latency of a faulting or
ignored command, each at least 1 and finite (`70_reset_and_hazards.md` R132). -/
def Config.latency (word : CmdWord) (data : Word512) (draw : Nat) : Nat :=
  Config.extraLatency word data draw + 1

/-- The edges beyond the first for which the host must hold `rst` (`70_reset_and_hazards.md` R121). Log entry 6. -/
opaque Config.extraRstCycles : Nat

/-- The minimum reset pulse RST_CYCLES, an OPEN parameter of at least 1 (`70_reset_and_hazards.md` R121). -/
def Config.rstCycles : Nat := Config.extraRstCycles + 1

/-- FREE VALUE. What the fields PHASE, W256, FILL and CAUSE of STATUS show while BUSY = 1, where each "may hold any value"
(`10_state.md` R18; `93_implementation_defined.md` I4); the argument is `State.draws`. Log entry 4. -/
opaque Config.busyStatus : Nat → BitVec 32

end Sys2Proof
end

