-- ==== Sys2Proof/Machine/Flags.lean ====
section
/-! DEFINITION. The output ports as functions of the state: `cmd_ready`, STATUS with all its fields, and the digest
(`10_state.md` R16 to R22). The core has no other flag (`10_state.md` R19). -/

namespace Sys2Proof.Machine

/-- The two-bit value of PHASE (`10_state.md` R14). -/
def phaseCode : Phase → BitVec 2
  | .idle => 0
  | .active => 1
  | .done => 2
  | .fault => 3

/-- BUSY (`10_state.md` R16). -/
def State.busy (s : State) : Bool := s.busyLeft != 0

/-- `cmd_ready`, which equals `not BUSY` (`10_state.md` R22). -/
def State.cmdReady (s : State) : Bool := !s.busy

/-- DVALID: PHASE = DONE and BUSY = 0 (`10_state.md` R17). -/
def State.dvalid (s : State) : Bool := s.phase == .done && !s.busy

/-- The layout of STATUS; the reserved bits are 0 (`10_state.md` R17). -/
def statusWord (cause : BitVec 4) (fill : BitVec 6) (w256 dvalid busy : Bool) (phase : BitVec 2) : BitVec 32 :=
  (cause.setWidth 32 <<< 16) ||| (fill.setWidth 32 <<< 8) ||| ((BitVec.ofBool w256).setWidth 32 <<< 4) |||
    ((BitVec.ofBool dvalid).setWidth 32 <<< 3) ||| ((BitVec.ofBool busy).setWidth 32 <<< 2) ||| phase.setWidth 32

/-- STATUS while BUSY = 1: BUSY reads 1, DVALID reads 0, and the other fields are free (`10_state.md` R18). Log entries 4
and 5. -/
def busyStatusWord (free : BitVec 32) : BitVec 32 :=
  statusWord (free.extractLsb' 16 4) (free.extractLsb' 8 6) (free.getLsbD 4) false true (free.extractLsb' 0 2)

/-- STATUS, the value of the port `status` (`10_state.md` R17, R18). -/
def State.status (s : State) : BitVec 32 :=
  if s.busy then busyStatusWord (Config.busyStatus s.draws)
  else statusWord s.cause s.fill s.w256 s.dvalid s.busy (phaseCode s.phase)

/-- The value of the port `digest` (`10_state.md` R20). -/
def State.digest (s : State) : Word512 :=
  if s.dvalid then
    if s.w256 then (upperHalf s.h).setWidth 512 else s.h
  else 0

/-- The bytes of the digest: 64 in 512-bit mode and 32 in 256-bit mode (`10_state.md` R20). -/
def State.digestLength (s : State) : Nat := if s.w256 then 32 else 64

/-- The digest as a byte string, in output order: byte 0 of the port first (`10_state.md` R20; `42_context_commands.md` R93).
Nothing while it is not valid. -/
def State.digestBytes (s : State) : List Byte :=
  if s.dvalid then (List.range s.digestLength).map (byte s.digest) else []

/-- The output ports (`10_state.md` R22). -/
structure Outputs where
  /-- The core can accept a command. -/
  cmdReady : Bool
  /-- STATUS. -/
  status : BitVec 32
  /-- The digest output. -/
  digest : Word512
  deriving DecidableEq, Repr

/-- What the core drives on its output ports in a state. -/
def State.outputs (s : State) : Outputs where
  cmdReady := s.cmdReady
  status := s.status
  digest := s.digest

end Sys2Proof.Machine
end

