-- ==== Sys2Proof/Machine/Clock.lean ====
section
/-! DEFINITION. The core at the level of its clock: one rising edge of `clk` with given input pins, and a run of edges
(`10_state.md` R16, R22, R23; `70_reset_and_hazards.md` R121, R123, R127, R131, R132). `step` is the atomic view that
`70_reset_and_hazards.md` R126 prescribes; that this view refines it is an obligation. Log entry 3. -/

namespace Sys2Proof.Machine

/-- BUSY rises for the latency of the command just accepted (`10_state.md` R16; `70_reset_and_hazards.md` R132). -/
def startBusy (word : CmdWord) (data : Word512) (s : State) : State :=
  { s with busyLeft := Config.latency word data s.draws, draws := s.draws + 1 }

/-- One edge of the wait: a cycle less, and new free values on STATUS (`10_state.md` R18). -/
def tickBusy (s : State) : State := { s with busyLeft := s.busyLeft - 1, draws := s.draws + 1 }

/-- One rising edge of `clk`. Reset wins over everything (`60_exceptions.md` R109); while BUSY = 1 no command is accepted
(`70_reset_and_hazards.md` R127); a command is accepted with `cmd_valid = 1` and `cmd_ready = 1` (`10_state.md` R23); otherwise
the state is held. -/
def clockEdge (p : Pins) (s : State) : Host.Outcome State Fault Refusal :=
  if p.rst then .next (takeReset s)
  else if s.busy then .next (tickBusy s)
  else if p.cmdValid then
    match acceptCommand p.cmdWord p.cmdData s with
    | .next t => .next (startBusy p.cmdWord p.cmdData t)
    | .fault r => .fault r
    | .refused r => .refused r
  else .next s

/-- What an edge takes from the host: a reset, an accepted command, or nothing. -/
def edgeInput (p : Pins) (s : State) : List HostInput :=
  if p.rst then [.reset]
  else if s.cmdReady && p.cmdValid then [.command p.cmdWord p.cmdData]
  else []

/-- `rst` falls after a pulse of fewer than RST_CYCLES edges, `held` being the edges so far at which it was 1. -/
def pulseTooShort (held : Nat) (p : Pins) : Bool :=
  !p.rst && held != 0 && decide (held < Config.rstCycles)

/-- The edges at which `rst` has been 1 up to and including this one, without a gap. -/
def heldAfter (held : Nat) (p : Pins) : Nat := if p.rst then held + 1 else 0

/-- A run of edges; `held` is the length of the reset pulse in progress. A pulse shorter than RST_CYCLES is not modelled
(`93_implementation_defined.md` I18). -/
def clockRun (held : Nat) : List Pins → State → Host.Outcome State Fault Refusal
  | [], s => .next s
  | p :: ps, s =>
    if pulseTooShort held p then .refused .shortResetPulse
    else
      match clockEdge p s with
      | .next t => clockRun (heldAfter held p) ps t
      | .fault r => .fault r
      | .refused r => .refused r

/-- What a run of edges takes from the host, in order (`20_memory.md` R40). -/
def takenInputs : List Pins → State → List HostInput
  | [], _ => []
  | p :: ps, s =>
    match clockEdge p s with
    | .next t => edgeInput p s ++ takenInputs ps t
    | .fault _ => []
    | .refused _ => []

/-- What a host that waits sees of a state: the spec's registers, with BUSY = 0 and the model's own fields put aside. -/
def State.settled (s : State) : State := { s with busyLeft := 0, inputs := [], draws := 0 }

end Sys2Proof.Machine
end

