-- ==== Sys2Proof/Safety.lean ====
section
/-! DEFINITION. The terms that statements use: the invariant of the core's registers, a run without misuse, equality up to what no
output shows, and the blocks of a message. -/

namespace Sys2Proof.Machine

/-- CAUSE holds 0 while PHASE is not FAULT and one of the codes 1 to 5 in FAULT (`10_state.md` R15; `60_exceptions.md` R106). -/
abbrev State.CauseMatchesPhase (s : State) : Prop :=
  if s.phase = .fault then 1 ≤ s.cause.toNat ∧ s.cause.toNat ≤ 5 else s.cause = 0

/-- In IDLE no context has been opened since reset, so the context registers hold their reset values (`10_state.md` R14). -/
abbrev State.IdleIsFresh (s : State) : Prop :=
  s.phase = .idle →
    s.h = 0 ∧ s.n = 0 ∧ s.sigma = 0 ∧ s.buf = Vector.replicate 64 0 ∧ s.fill = 0 ∧ s.w256 = false

/-- N counts whole blocks while a context is open, and whole bytes always (`42_context_commands.md` R98); in DONE the fill level
is 0 (`42_context_commands.md` R89). -/
abbrev State.CounterIsWhole (s : State) : Prop :=
  s.n.toNat % 8 = 0 ∧ (s.phase = .active → s.n.toNat % 512 = 0) ∧ (s.phase = .done → s.fill = 0)

/-- The invariant of the registers that reset leaves and every step keeps. -/
abbrev State.Inv (s : State) : Prop := s.CauseMatchesPhase ∧ s.IdleIsFresh ∧ s.CounterIsWhole

/-- A run is safe when no misuse fault has been taken (`93_implementation_defined.md` I14: "A faulted run is never a passing
run"). -/
abbrev State.Safe (s : State) : Prop := s.phase ≠ .fault

/-- Equal but for the buffer's tail, the bytes `buf[j]` with j at or above fill, which no rule reads (`10_state.md` R13). -/
def SameButTail (s t : State) : Prop :=
  { s with buf := t.buf } = t ∧ ∀ j : Fin 64, j.val < s.fill.toNat → s.buf[j] = t.buf[j]

/-- The block of 64 message bytes that starts at byte 64 i, read as a Word512 (`20_memory.md` R30). -/
def messageBlock (bytes : List Byte) (i : Nat) : Word512 :=
  ofByteLanes fun j => bytes.getD (64 * i + j) 0

/-- The chaining value after the first k whole blocks of a message, from the initial value on: the tweak of block i is 512 i
(`42_context_commands.md` R82, R98). -/
def chainBlocks (iv : Word512) (bytes : List Byte) : Nat → Word512
  | 0 => iv
  | k + 1 => g (chainBlocks iv bytes k) (BitVec.ofNat 512 (512 * k)) (messageBlock bytes k)

/-- The sum of the first k whole blocks of a message (`42_context_commands.md` R99). -/
def sumBlocks (bytes : List Byte) : Nat → Word512
  | 0 => 0
  | k + 1 => sumBlocks bytes k + messageBlock bytes k

/-- The final chaining value of a message, written over the message alone and not over the core: whole blocks, the padded
block, the length and the checksum (`42_context_commands.md` R90, R97 to R99). -/
def hashValue (w256 : Bool) (bytes : List Byte) : Word512 :=
  let q := bytes.length / 64
  let last := messageBlock (bytes ++ [0x01]) q
  let h := chainBlocks (if w256 then iv256 else iv512) bytes q
  g (g (g h (BitVec.ofNat 512 (512 * q)) last) 0 (BitVec.ofNat 512 (8 * bytes.length))) 0 (sumBlocks bytes q + last)

/-- The digest of a message as a byte string: the 64 bytes of the final chaining value, or its upper 32
(`42_context_commands.md` R92). -/
def hashBytes (w256 : Bool) (bytes : List Byte) : List Byte :=
  if w256 then (List.range 32).map fun j => byte (hashValue true bytes) (32 + j)
  else (List.range 64).map (byte (hashValue false bytes))

/-- The ABSORB commands among which a message may be split (`30_encoding.md` R55). -/
def isLegalAbsorb : Instr → Bool
  | .absorb len _ => lenLegal len
  | .init _ => false
  | .finalize => false

end Sys2Proof.Machine
end

