-- ==== Sys2Proof/Certificates/Slice0/Obligations.lean ====
section
/-! DEFINITION. The statements for the provers, each from the numbered rules its docstring names. -/

open Sys2Proof Sys2Proof.Machine

/-! ### Encoding -/

/-- Decoding the transfer that encodes a well-formed command gives the command back, every operand at every value
(`30_encoding.md` R47 to R51). -/
def Obligations.DecodeInvertsEncode : Prop :=
  ∀ i : Instr, i.wellFormed = true → decode (encode i).1 (encode i).2 = .ok i

/-- A word that decodes is the word that encodes the command it decodes to, the command is well formed, and an ABSORB
carries the data of the transfer (`30_encoding.md` R46 to R51). -/
def Obligations.EncodeInvertsDecode : Prop :=
  ∀ (word : CmdWord) (data : Word512) (i : Instr), decode word data = .ok i →
    i.wellFormed = true ∧ encodeWord i = word ∧ (opField word = 2 → encodeData i = data)

/-- The opcode map with its match and mask (`30_encoding.md` R51): each row of the table is exactly the words of its
command, no other word decodes, and the seven encoded examples are the words of their commands. -/
def Obligations.OpcodeMapMatchAndMask : Prop :=
  (∀ (word : CmdWord) (data : Word512),
    ((∃ w, decode word data = .ok (.init w)) ↔ word &&& 0xFFFFFFEF = 0x00000001) ∧
    ((∃ len d, decode word data = .ok (.absorb len d)) ↔
      word &&& 0xFFFFF80F = 0x00000002 ∧ (word.extractLsb' 4 7).toNat ≤ 64) ∧
    (decode word data = .ok .finalize ↔ word &&& 0xFFFFFFFF = 0x00000003) ∧
    (decode word data = .error .illegalOpcode ↔
      word.extractLsb' 0 4 = 0 ∨ 4 ≤ (word.extractLsb' 0 4).toNat)) ∧
  ∀ data : Word512,
    encodeWord (.init false) = 0x00000001 ∧ encodeWord (.init true) = 0x00000011 ∧
    encodeWord (.absorb 0 data) = 0x00000002 ∧ encodeWord (.absorb 8 data) = 0x00000082 ∧
    encodeWord (.absorb 63 data) = 0x000003F2 ∧ encodeWord (.absorb 64 data) = 0x00000402 ∧
    encodeWord .finalize = 0x00000003

/-- The operands are the fields of the word and the lanes of the data, neither extended, scaled nor shifted
(`30_encoding.md` R50). -/
def Obligations.OperandsAreTheFields : Prop :=
  ∀ (word : CmdWord) (data : Word512),
    (∀ w, decode word data = .ok (.init w) → w = word.getLsbD 4) ∧
    (∀ len d, decode word data = .ok (.absorb len d) →
      len.toNat = word.toNat / 16 % 128 ∧ d = data ∧
      (messageBytes len d).length = len.toNat ∧
      ∀ j, j < len.toNat → (messageBytes len d)[j]? = some (data.extractLsb' (8 * j) 8))

/-- The command words printed by the spec decode to the commands they are printed for (`30_encoding.md` R51;
`95_test_vectors.md` section 3). -/
def Obligations.PrintedWordsDecode : Prop :=
  ∀ data : Word512,
    decode 0x00000001 data = .ok (.init false) ∧ decode 0x00000011 data = .ok (.init true) ∧
    decode 0x000003F2 data = .ok (.absorb 63 data) ∧ decode 0x00000402 data = .ok (.absorb 64 data) ∧
    decode 0x00000003 data = .ok .finalize ∧ decode 0x00000412 data = .error .badLength ∧
    decode 0x00000013 data = .error .reservedNonzero ∧ decode 0x0000000F data = .error .illegalOpcode

/-- Each illegal command word raises the misuse that the list names for it, whatever the data, and nothing else changes
(`30_encoding.md` R52; the codes of `60_exceptions.md` R106). -/
def Obligations.IllegalWordsRaiseTheirMisuse : Prop :=
  ∀ (word : CmdWord) (data : Word512) (s : State), s.phase ≠ .fault →
    let op := (word.extractLsb' 0 4).toNat
    ((op = 0 ∨ 4 ≤ op) → acceptCommand word data s = .next { s with phase := .fault, cause := 1 }) ∧
    (op = 1 → word.extractLsb' 5 27 ≠ 0 → acceptCommand word data s = .next { s with phase := .fault, cause := 2 }) ∧
    (op = 2 → word.extractLsb' 11 21 ≠ 0 → acceptCommand word data s = .next { s with phase := .fault, cause := 2 }) ∧
    (op = 3 → word.extractLsb' 4 28 ≠ 0 → acceptCommand word data s = .next { s with phase := .fault, cause := 2 }) ∧
    (op = 2 → word.extractLsb' 11 21 = 0 → 65 ≤ (word.extractLsb' 4 7).toNat →
      acceptCommand word data s = .next { s with phase := .fault, cause := 3 })

/-- An ABSORBN of any bytes is a sequence of legal ABSORBs that carries exactly those bytes in order: `ABSORB 64` for every
whole chunk, then the rest if there is one, and nothing for no bytes (`30_encoding.md` R55). -/
def Obligations.AbsorbnCarriesItsBytes : Prop :=
  ∀ bytes : List Byte,
    message (absorbN bytes) = bytes ∧
    (∀ i ∈ absorbN bytes, isLegalAbsorb i = true) ∧
    (absorbN bytes).length = bytes.length / 64 + (if bytes.length % 64 = 0 then 0 else 1) ∧
    ∀ k, k < bytes.length / 64 → ∃ data, (absorbN bytes)[k]? = some (.absorb 64 data)

/-! ### The byte views and the adder -/

/-- `from_bytes` and `to_bytes` are inverse to each other and little-endian, and so are the limb conversions
(`40_word_adder.md` R56). -/
def Obligations.ByteConversionsAreInverse : Prop :=
  (∀ w : Word512, fromBytes (toBytes w) = w ∧ fromLimbs (toLimbs w) = w ∧
    (∀ j (hj : j < 64), (toBytes w)[j] = byte w j) ∧ ∀ i (hi : i < 8), (toLimbs w)[i] = limb w i) ∧
  (∀ b : Vector Byte 64, toBytes (fromBytes b) = b ∧
    (fromBytes b).toNat = ∑ j : Fin 64, b[j].toNat * 2 ^ (8 * j.val)) ∧
  (∀ l : Vector Limb 8, toLimbs (fromLimbs l) = l ∧
    (fromLimbs l).toNat = ∑ i : Fin 8, l[i].toNat * 2 ^ (64 * i.val))

/-- The two views describe the same integer: byte j is bits 8j+7 to 8j, limb i is bits 64i+63 to 64i, and byte k of limb i
is byte 8i+k (`20_memory.md` R29). -/
def Obligations.ByteAndLimbViewsAgree : Prop :=
  ∀ w : Word512,
    (∀ j, j < 64 → (byte w j).toNat = w.toNat / 2 ^ (8 * j) % 2 ^ 8) ∧
    (∀ i, i < 8 → (limb w i).toNat = w.toNat / 2 ^ (64 * i) % 2 ^ 64) ∧
    ∀ i k, i < 8 → k < 8 → (limb w i).extractLsb' (8 * k) 8 = byte w (8 * i + k)

/-- The limb form and the byte form of ADD512 give the same value for every x and y, and it is `(x + y) mod 2^512`
(`40_word_adder.md` R62). -/
def Obligations.AdderFormsAgree : Prop :=
  ∀ x y : Word512,
    addByLimbs x y = addByBytes x y ∧ addByLimbs x y = add512 x y ∧
    (add512 x y).toNat = (x.toNat + y.toNat) % 2 ^ 512

/-- The limb form of ADD512: the carry into limb 0 is 0, every limb's exact sum is below 2^65, the limb of the result is that sum mod 2^64, and
the carry into the next limb is one bit, bit 64 of that sum (`40_word_adder.md` R59). -/
def Obligations.LimbCarryIsOneBit : Prop :=
  ∀ (x y : Word512) (i : Nat),
    limbCarry x y 0 = 0 ∧ limbCarry x y i ≤ 1 ∧ limbSum (limb x i) (limb y i) (limbCarry x y i) < 2 ^ 65 ∧
    limbCarry x y (i + 1) = ((limbSum (limb x i) (limb y i) (limbCarry x y i)).testBit 64).toNat ∧
    (i < 8 → (limb (addByLimbs x y) i).toNat = limbSum (limb x i) (limb y i) (limbCarry x y i) % 2 ^ 64)

/-- The hard case of the carry test: an addend limb of all ones with carry-in 1, and an addend limb of 0 with carry-in 0, give
the same limb, and the carries are 1 and 0; the test "the sum is below the limb of x" is wrong in the first (`40_word_adder.md`
R60; `90_conflicts.md` C1). -/
def Obligations.CarryNeedsTheExactSum : Prop :=
  ∀ (x y : Word512) (i : Nat), i < 8 →
    (limb y i = BitVec.allOnes 64 → limbCarry x y i = 1 →
      limb (addByLimbs x y) i = limb x i ∧ limbCarry x y (i + 1) = 1 ∧
        ¬(limb (addByLimbs x y) i).toNat < (limb x i).toNat) ∧
    (limb y i = 0 → limbCarry x y i = 0 →
      limb (addByLimbs x y) i = limb x i ∧ limbCarry x y (i + 1) = 0)

/-! ### The compression function -/

/-- S replaces every byte by its image under PI, and S(0) has every byte 0xFC (`41_compression_g.md` R66). -/
def Obligations.SubstituteActsOnEveryByte : Prop :=
  (∀ (a : Word512) (j : Nat), j < 64 → byte (substitute a) j = sbox (byte a j)) ∧
  ∀ j, j < 64 → byte (substitute 0) j = 0xFC

/-- P moves byte `TAU[j]` to byte j, P undoes itself, and P transposes the 8 x 8 matrix of bytes: byte k of limb i of the result is
byte i of limb k of the operand (`41_compression_g.md` R67). -/
def Obligations.PermuteTransposesTheBytes : Prop :=
  ∀ a : Word512,
    (∀ j, j < 64 → byte (permute a) j = byte a (tau j) ∧ tau (tau j) = j ∧ byte (permute a) (tau j) = byte a j) ∧
    permute (permute a) = a ∧
    ∀ i k, i < 8 → k < 8 →
      (limb (permute a) i).extractLsb' (8 * k) 8 = (limb a k).extractLsb' (8 * i) 8

/-- l is linear, takes bit 63 - b of its input to row `A[b]`, and L applies it to every limb (`41_compression_g.md` R68). -/
def Obligations.LinearMapIsTheMatrix : Prop :=
  (∀ u v : Limb, linearLimb (u ^^^ v) = linearLimb u ^^^ linearLimb v) ∧ linearLimb 0 = 0 ∧
  (∀ b, b < 64 → linearLimb (BitVec.twoPow 64 (63 - b)) = matrixRow b) ∧
  (∀ (a : Word512) (i : Nat), i < 8 → limb (linear a) i = linearLimb (limb a i)) ∧
  linearLimb 0x8000000000000000 = 0x8E20FAA72BA0B470 ∧ linearLimb 0x0000000000000001 = 0x641C314B2B8EE083

/-- LPSX is L after P after S after the exclusive or, is symmetric in its operands, and LPSX(0, 0) has every limb
0xB383FC2ECED4A574 (`41_compression_g.md` R69). -/
def Obligations.LpsxComposesItsParts : Prop :=
  (∀ k a : Word512, lpsx k a = linear (permute (substitute (k ^^^ a))) ∧ lpsx k a = lpsx a k) ∧
  ∀ i, i < 8 → limb (lpsx 0 0) i = 0xB383FC2ECED4A574

/-- The tables' own structure: PI is a permutation (`41_compression_g.md` R77); in each group of eight rows of A every byte of a row
after the first is the byte above shifted right, with 0x8E where its bit 0 was 1 (R79). -/
def Obligations.TablesHaveTheirStructure : Prop :=
  (∀ u v : Byte, sbox u = sbox v → u = v) ∧
  ∀ b, b < 64 → b % 8 ≠ 0 → ∀ k, k < 8 →
    (matrixRow b).extractLsb' (8 * k) 8 =
      ((matrixRow (b - 1)).extractLsb' (8 * k) 8 >>> 1) ^^^
        (if ((matrixRow (b - 1)).extractLsb' (8 * k) 8).getLsbD 0 then 0x8E else 0x00)

/-- g from its thirteen keys and twelve states: any K and S that satisfy the key schedule (`41_compression_g.md` R70) and the
rounds (R71) give g as `(K13 xor s12) xor h xor m` (R72). -/
def Obligations.CompressionFollowsTheKeySchedule : Prop :=
  ∀ (h n m : Word512) (K S : Nat → Word512),
    K 1 = lpsx h n → (∀ i, i ≤ 10 → K (i + 2) = lpsx (K (i + 1)) (roundConstant i)) →
    K 13 = lpsx (K 12) (roundConstant 11) →
    S 1 = lpsx (K 1) m → (∀ i, i ≤ 10 → S (i + 2) = lpsx (K (i + 2)) (S (i + 1))) →
    g h n m = ((K 13 ^^^ S 12) ^^^ h) ^^^ m

/-- The work per command: each g applies LPSX 25 times, INIT makes no g call, ABSORB one when it compresses a block and none
otherwise, FINALIZE three (`70_reset_and_hazards.md` R133). The counted twins compute what the commands compute. -/
def Obligations.WorkPerCommandIsFixed : Prop :=
  (∀ (h n m : Word512) (c : Nat), gCounted h n m c = (g h n m, c + 25)) ∧
  (∀ (len : Nat) (data : Word512) (s : State) (c : Nat), len ≤ 64 →
    absorbCounted len data s c =
      (absorbBytes len data s, if 64 ≤ s.fill.toNat + len then c + 1 else c)) ∧
  ∀ (s : State) (c : Nat), finalizeCounted s c = (finalizeContext s, c + 3)

/-! ### INIT -/

/-- INIT (`42_context_commands.md` R83): outside FAULT it opens a fresh context with the initial vector of the width and the state
after shows PHASE = ACTIVE, DVALID = 0, W256 = W, FILL = 0, CAUSE = 0 and a digest of 0; a second INIT with the same W changes
nothing; a reserved bit raises RESERVED_NONZERO; in FAULT it is ignored. -/
def Obligations.InitOpensFreshContext : Prop :=
  (∀ (w : Bool) (s : State), s.phase ≠ .fault →
    ∃ t, exec (.init w) s = .next t ∧
      t = { s with h := t.h, n := 0, sigma := 0, buf := Vector.replicate 64 0, fill := 0, w256 := w, phase := .active } ∧
      (∀ j, j < 64 → byte t.h j = if w then 0x01 else 0x00) ∧
      (s.cause = 0 → s.busy = false → t.status = (if w then 0x00000011 else 0x00000001)) ∧
      t.digest = 0 ∧ exec (.init w) t = .next t) ∧
  (∀ (w : Bool) (s : State), s.phase = .fault → exec (.init w) s = .next s) ∧
  ∀ (word : CmdWord) (data : Word512) (s : State),
    (word &&& 0xFFFFFFEF = 0x00000001 → acceptCommand word data s = exec (.init (word.getLsbD 4)) s) ∧
    (word.extractLsb' 0 4 = 1 → word.extractLsb' 5 27 ≠ 0 → s.phase ≠ .fault →
      acceptCommand word data s = .next { s with phase := .fault, cause := 2 })

/-- INIT in ACTIVE or DONE abandons what was there: the state after does not depend on the old h, N, Sigma, buffer, fill or width,
and no digest is shown (`42_context_commands.md` R95). -/
def Obligations.InitAbandonsTheOldContext : Prop :=
  ∀ (w : Bool) (s t : State), (s.phase = .active ∨ s.phase = .done) → (t.phase = .active ∨ t.phase = .done) →
    s.cause = t.cause → s.busyLeft = t.busyLeft → s.inputs = t.inputs → s.draws = t.draws →
    exec (.init w) s = exec (.init w) t ∧ ∃ u, exec (.init w) s = .next u ∧ u.digest = 0 ∧ u.fill = 0

/-! ### ABSORB -/

/-- ABSORB (`42_context_commands.md` R85), every path of it: a whole block on an empty buffer is compressed directly; fewer bytes
than fit are appended; otherwise the full buffer is compressed and the bytes left over begin the next one; outside ACTIVE, and for an illegal
length or reserved bit, the fault of its check, the lowest code first. -/
def Obligations.AbsorbFeedsItsBytes : Prop :=
  (∀ (len : BitVec 7) (data : Word512) (s : State), s.phase = .active → len.toNat ≤ 64 →
    let f := s.fill.toNat
    let l := len.toNat
    (f = 0 ∧ l = 64 →
      exec (.absorb len data) s =
        .next { s with h := g s.h s.n data, n := s.n + 512, sigma := s.sigma + data }) ∧
    (f + l < 64 →
      ∃ t, exec (.absorb len data) s = .next t ∧ t = { s with buf := t.buf, fill := t.fill } ∧
        t.fill.toNat = f + l ∧
        ∀ j (hj : j < 64), t.buf[j] = if f ≤ j ∧ j < f + l then byte data (j - f) else s.buf[j]) ∧
    (0 < f ∧ 64 ≤ f + l →
      ∃ t m, exec (.absorb len data) s = .next t ∧
        (∀ j (hj : j < 64), byte m j = if j < f then s.buf[j] else byte data (j - f)) ∧
        t = { s with h := g s.h s.n m, n := s.n + 512, sigma := s.sigma + m, buf := t.buf, fill := t.fill } ∧
        t.fill.toNat = f + l - 64 ∧
        ∀ j (hj : j < 64),
          t.buf[j] = if j < f + l - 64 then byte data (64 - f + j) else byte m j)) ∧
  (∀ (len : BitVec 7) (data : Word512) (s : State),
    (s.phase = .fault → exec (.absorb len data) s = .next s) ∧
    (s.phase ≠ .fault → 65 ≤ len.toNat →
      exec (.absorb len data) s = .next { s with phase := .fault, cause := 3 }) ∧
    (s.phase = .idle → len.toNat ≤ 64 →
      exec (.absorb len data) s = .next { s with phase := .fault, cause := 4 }) ∧
    (s.phase = .done → len.toNat ≤ 64 →
      exec (.absorb len data) s = .next { s with phase := .fault, cause := 5 })) ∧
  ∀ (word : CmdWord) (data : Word512) (s : State),
    (word &&& 0xFFFFF80F = 0x00000002 → (word.extractLsb' 4 7).toNat ≤ 64 →
      acceptCommand word data s = exec (.absorb (word.extractLsb' 4 7) data) s) ∧
    (word.extractLsb' 0 4 = 2 → word.extractLsb' 11 21 ≠ 0 → s.phase ≠ .fault →
      acceptCommand word data s = .next { s with phase := .fault, cause := 2 })

/-- The corner cases of ABSORB (`42_context_commands.md` R87): no bytes change nothing; 64 bytes keep the fill level; an exact fit
leaves an empty buffer; at most one block is compressed. -/
def Obligations.AbsorbCornerCases : Prop :=
  ∀ (data : Word512) (s : State), s.phase = .active →
    exec (.absorb 0 data) s = .next s ∧
    (∃ t, exec (.absorb 64 data) s = .next t ∧ t.fill = s.fill ∧ t.n = s.n + 512) ∧
    (∀ len : BitVec 7, len.toNat < 64 → s.fill.toNat + len.toNat = 64 →
      ∃ t, exec (.absorb len data) s = .next t ∧ t.fill = 0 ∧ t.n = s.n + 512) ∧
    ∀ len : BitVec 7, len.toNat ≤ 64 →
      ∃ t, exec (.absorb len data) s = .next t ∧ (t.n = s.n ∨ t.n = s.n + 512) ∧
        (s.fill.toNat + len.toNat < 64 → t.h = s.h ∧ t.n = s.n ∧ t.sigma = s.sigma)

/-- Lanes LEN to 63 are ignored by ABSORB, and all of `cmd_data` by INIT and FINALIZE; the message bytes are lanes 0 to LEN-1 in order
(`20_memory.md` R31). -/
def Obligations.LanesBeyondLenAreIgnored : Prop :=
  (∀ (len : BitVec 7) (d₁ d₂ : Word512) (s : State), (∀ j, j < len.toNat → byte d₁ j = byte d₂ j) →
    exec (.absorb len d₁) s = exec (.absorb len d₂) s) ∧
  (∀ (word : CmdWord) (d₁ d₂ : Word512) (s : State), word.extractLsb' 0 4 ≠ 2 →
    acceptCommand word d₁ s = acceptCommand word d₂ s) ∧
  ∀ (len : BitVec 7) (data : Word512),
    messageBytes len data = (List.range len.toNat).map fun j => data.extractLsb' (8 * j) 8

/-- The direct path and the buffered path give the same h, N, Sigma and fill, and differ in `buf` alone (`42_context_commands.md`
R88). -/
def Obligations.DirectAndBufferedPathsAgree : Prop :=
  ∀ (data : Word512) (s : State), s.phase = .active → s.fill = 0 →
    ∃ t, exec (.absorb 64 data) s = .next t ∧ t.buf = s.buf ∧
      absorbBuffered 64 data s = { t with buf := toBytes data }

/-! ### FINALIZE and the digest -/

/-- FINALIZE (`42_context_commands.md` R89): in ACTIVE the padded block, the length and the checksum are folded into h, and the state
after shows PHASE = DONE, DVALID = 1, FILL = 0 and the digest; outside ACTIVE, and for a reserved bit, the fault of its check; in FAULT it is
ignored. -/
def Obligations.FinalizeFoldsLengthAndChecksum : Prop :=
  (∀ s : State, s.phase = .active →
    ∃ t m, exec .finalize s = .next t ∧
      (∀ j (hj : j < 64),
        byte m j = if j < s.fill.toNat then s.buf[j] else if j = s.fill.toNat then 0x01 else 0x00) ∧
      t.n = s.n + BitVec.ofNat 512 (8 * s.fill.toNat) ∧ t.sigma = s.sigma + m ∧
      t.h = g (g (g s.h s.n m) 0 t.n) 0 t.sigma ∧ toBytes m = t.buf ∧
      t = { s with h := t.h, n := t.n, sigma := t.sigma, buf := t.buf, fill := 0, phase := .done } ∧
      (s.busy = false → t.dvalid = true ∧ t.digest = (if s.w256 then t.h >>> 256 else t.h)) ∧
      (s.cause = 0 → s.busy = false → t.status = (if s.w256 then 0x0000001A else 0x0000000A))) ∧
  (∀ s : State,
    (s.phase = .fault → exec .finalize s = .next s) ∧
    (s.phase = .idle → exec .finalize s = .next { s with phase := .fault, cause := 4 }) ∧
    (s.phase = .done → exec .finalize s = .next { s with phase := .fault, cause := 5 })) ∧
  ∀ (word : CmdWord) (data : Word512) (s : State),
    (word = 0x00000003 → acceptCommand word data s = exec .finalize s) ∧
    (word.extractLsb' 0 4 = 3 → word.extractLsb' 4 28 ≠ 0 → s.phase ≠ .fault →
      acceptCommand word data s = .next { s with phase := .fault, cause := 2 })

/-- The empty message in both widths, with any ABSORB 0 in between (`42_context_commands.md` R101). -/
def Obligations.EmptyMessageHasItsFixedDigest : Prop :=
  ∀ (w : Bool) (cs : List Instr) (s : State), s.phase ≠ .fault →
    (∀ i ∈ cs, ∃ data, i = .absorb 0 data) →
    ∃ t, runCommands (.init w :: (cs ++ [.finalize])) s = .next t ∧
      t.h = g (g (g (if w then iv256 else 0) 0 1) 0 0) 0 1 ∧ t.n = 0 ∧ t.sigma = 1

/-- The digest port (`10_state.md` R20): h in 512-bit mode, the upper half zero-extended in 256-bit mode, 0 while DVALID = 0; the
digest's bytes are the port's lowest 64 or 32 bytes in increasing order. -/
def Obligations.DigestPortShowsTheDigest : Prop :=
  ∀ s : State,
    (s.dvalid = true → s.w256 = false → s.digest = s.h ∧
      s.digestBytes = (List.range 64).map (byte s.digest)) ∧
    (s.dvalid = true → s.w256 = true → s.digest.toNat = s.h.toNat / 2 ^ 256 ∧
      s.digestBytes = (List.range 32).map (byte s.digest)) ∧
    (s.dvalid = false → s.digest = 0)

/-- After FINALIZE the digest bytes are `h.byte(64 - k)` to `h.byte(63)`, k being 64 or 32 by the width, and they stay while the host
sends nothing (`42_context_commands.md` section 6). -/
def Obligations.FinalizeShowsTheUpperBytes : Prop :=
  ∀ s : State, s.phase = .active → s.busyLeft = 0 →
    ∃ t, exec .finalize s = .next t ∧
      (let k := if s.w256 then 32 else 64
       t.digestBytes = (List.range k).map fun j => byte t.h (64 - k + j)) ∧
      (t.inputs = [] → step t = .next t)

/-- The two widths differ in the initial value and in the output alone: ABSORB and FINALIZE do not depend on W256 and leave it
(`42_context_commands.md` R103). -/
def Obligations.WidthsDifferOnlyAtTheEnds : Prop :=
  ∀ (i : Instr) (s t : State) (b : Bool), (∀ w, i ≠ .init w) → exec i s = .next t →
    t.w256 = s.w256 ∧ exec i { s with w256 := b } = .next { t with w256 := b }

/-! ### The command step, phases and faults -/

/-- One accepted transfer is handled as the pseudocode of `42_context_commands.md` R81 says, with the checks of `60_exceptions.md`
R108 in their order. -/
def Obligations.CommandStepChecksThenRuns : Prop :=
  ∀ (word : CmdWord) (data : Word512) (s : State),
    (s.phase = .fault → acceptCommand word data s = .next s) ∧
    (s.phase ≠ .fault → ∀ c, checkCommand word s.phase = some c →
      acceptCommand word data s = .next { s with phase := .fault, cause := c.code }) ∧
    (s.phase ≠ .fault → checkCommand word s.phase = none →
      (word.extractLsb' 0 4 = 1 → acceptCommand word data s = .next (openContext (word.getLsbD 4) s)) ∧
      (word.extractLsb' 0 4 = 2 →
        acceptCommand word data s = .next (absorbBytes (word.extractLsb' 4 7).toNat data s)) ∧
      (word.extractLsb' 0 4 = 3 → acceptCommand word data s = .next (finalizeContext s)) ∧
      (word.extractLsb' 0 4 = 1 ∨ word.extractLsb' 0 4 = 2 ∨ word.extractLsb' 0 4 = 3))

/-- The phase table of `42_context_commands.md` R94, with the causes of its cells. -/
def Obligations.PhasesMoveAsTheTableSays : Prop :=
  ∀ (word : CmdWord) (data : Word512) (s : State),
    ∃ t, acceptCommand word data s = .next t ∧
      (s.phase = .fault → t = s) ∧
      (s.phase ≠ .fault →
        (∀ c, decode word data = .error c → t.phase = .fault ∧ t.cause = c.code) ∧
        (∀ w, decode word data = .ok (.init w) → t.phase = .active ∧ t.w256 = w ∧
          t.h = (if w then iv256 else iv512) ∧ t.n = 0 ∧ t.sigma = 0 ∧ t.fill = 0) ∧
        (∀ len d, decode word data = .ok (.absorb len d) →
          (s.phase = .idle → t.phase = .fault ∧ t.cause = 4) ∧
          (s.phase = .active → t.phase = .active) ∧
          (s.phase = .done → t.phase = .fault ∧ t.cause = 5)) ∧
        (decode word data = .ok .finalize →
          (s.phase = .idle → t.phase = .fault ∧ t.cause = 4) ∧
          (s.phase = .active → t.phase = .done) ∧
          (s.phase = .done → t.phase = .fault ∧ t.cause = 5)))

/-- The fault step writes PHASE and CAUSE and nothing else; from it on STATUS reads PHASE = 3, DVALID = 0 and the cause, with FILL and
W256 as they were, and the digest reads 0 (`60_exceptions.md` R110). -/
def Obligations.FaultStepIsPrecise : Prop :=
  ∀ (word : CmdWord) (data : Word512) (s t : State), s.phase ≠ .fault → acceptCommand word data s = .next t →
    t.phase = .fault →
    t = { s with phase := .fault, cause := t.cause } ∧ 1 ≤ t.cause.toNat ∧ t.cause.toNat ≤ 5 ∧ t.digest = 0 ∧
    (s.busy = false →
      t.status.extractLsb' 0 2 = 3 ∧ t.status.getLsbD 3 = false ∧ t.status.getLsbD 4 = s.w256 ∧
      t.status.extractLsb' 8 6 = s.fill ∧ t.status.extractLsb' 16 4 = t.cause)

/-- FAULT is sticky: any number of commands, INIT among them, changes nothing, and a reset returns every register to its reset value
with PHASE = IDLE; the STATUS of the worked example, whose digest reads 0 (`60_exceptions.md` R111). -/
def Obligations.FaultIsLeftByResetAlone : Prop :=
  ∀ s : State, s.phase = .fault →
    (∀ cmds : List (CmdWord × Word512),
      takeInputs (cmds.map fun c => .command c.1 c.2) s = .next (if cmds = [] then s else awaitReady s)) ∧
    (∃ t, takeInput .reset s = .next t ∧ t.settled = State.reset) ∧ s.digest = 0 ∧
    (s.cause = 5 → s.fill = 0 → s.w256 = false → s.busy = false → s.status = 0x00050003)

/-- ABSORB and FINALIZE on a consumed context raise CONSUMED and leave the digest's value untouched but no longer shown
(`42_context_commands.md` R96). -/
def Obligations.ConsumedContextRaisesConsumed : Prop :=
  ∀ (i : Instr) (s : State), s.phase = .done → i.wellFormed = true → (∀ w, i ≠ .init w) →
    ∃ t, exec i s = .next t ∧ t = { s with phase := .fault, cause := 5 } ∧ t.digest = 0

/-- Of the commands, only FINALIZE in ACTIVE makes a digest valid, only INIT opens a context, only INIT writes W256, and none leads to
IDLE (`10_state.md` R10, R14). A reset, which is no command, writes W256 and leads to IDLE (`70_reset_and_hazards.md` R121, R122). -/
def Obligations.OnlyInitOpensAndOnlyFinalizeCloses : Prop :=
  ∀ (i : Instr) (s t : State), exec i s = .next t →
    (t.phase = .done → s.phase ≠ .done → i = .finalize ∧ s.phase = .active) ∧
    (t.phase = .active → s.phase ≠ .active → ∃ w, i = .init w) ∧
    (t.w256 ≠ s.w256 → ∃ w, i = .init w) ∧
    t.phase ≠ .idle

/-- The frame of every command: BUSY and the model's own fields stay; ABSORB keeps W256, PHASE and CAUSE in ACTIVE, the accumulators when
no block is compressed, and every buffer byte outside those it writes; FINALIZE keeps W256, CAUSE and the valid bytes of the
buffer; INIT keeps CAUSE (`42_context_commands.md` sections 3 to 5, "State written"). -/
def Obligations.CommandsLeaveTheRestUnchanged : Prop :=
  (∀ (i : Instr) (s t : State), exec i s = .next t →
    t.busyLeft = s.busyLeft ∧ t.inputs = s.inputs ∧ t.draws = s.draws) ∧
  (∀ (w : Bool) (s t : State), exec (.init w) s = .next t → t.cause = s.cause) ∧
  (∀ (len : BitVec 7) (data : Word512) (s t : State), exec (.absorb len data) s = .next t →
    t.w256 = s.w256 ∧
    (s.phase = .active → len.toNat ≤ 64 → t.phase = s.phase ∧ t.cause = s.cause) ∧
    (s.fill.toNat + len.toNat < 64 → t.h = s.h ∧ t.n = s.n ∧ t.sigma = s.sigma) ∧
    (s.phase ≠ .active ∨ 64 < len.toNat →
      t.h = s.h ∧ t.n = s.n ∧ t.sigma = s.sigma ∧ t.buf = s.buf ∧ t.fill = s.fill) ∧
    ∀ j (hj : j < 64),
      ¬(s.fill.toNat ≤ j ∧ j < s.fill.toNat + len.toNat) → ¬(j + 64 < s.fill.toNat + len.toNat) →
        t.buf[j] = s.buf[j]) ∧
  ∀ s t : State, exec .finalize s = .next t →
    t.w256 = s.w256 ∧ (s.phase = .active → t.cause = s.cause) ∧
    (s.phase ≠ .active →
      t.h = s.h ∧ t.n = s.n ∧ t.sigma = s.sigma ∧ t.buf = s.buf ∧ t.fill = s.fill) ∧
    ∀ j (hj : j < 64), j < s.fill.toNat → t.buf[j] = s.buf[j]

/-- No command reads BUSY, the pending inputs or the index of the free values: changing them changes the result in those fields alone
(`42_context_commands.md` R102: "No rule reads a clock, a counter, a random source or the timing of commands"). The three fields are the model's choice, log entries 1, 3 and 4. -/
def Obligations.CommandsReadNoClock : Prop :=
  ∀ (i : Instr) (s t : State) (b d : Nat) (l : List HostInput), exec i s = .next t →
    exec i { s with busyLeft := b, inputs := l, draws := d } = .next { t with busyLeft := b, inputs := l, draws := d }

/-! ### STATUS and reset -/

/-- The layout of STATUS (`10_state.md` R17): BUSY and DVALID at all times, and every field and reserved bit while BUSY = 0; while BUSY = 1
the other fields are left free (R18). -/
def Obligations.StatusHasItsLayout : Prop :=
  ∀ s : State,
    s.status.getLsbD 2 = s.busy ∧ s.status.getLsbD 3 = s.dvalid ∧
    (s.dvalid = true ↔ s.phase = .done ∧ s.busy = false) ∧
    (s.busy = false →
      s.status.extractLsb' 0 2 =
        (match s.phase with
         | .idle => 0
         | .active => 1
         | .done => 2
         | .fault => 3) ∧
      s.status.getLsbD 4 = s.w256 ∧ s.status.extractLsb' 8 6 = s.fill ∧ s.status.extractLsb' 16 4 = s.cause ∧
      s.status.extractLsb' 5 3 = 0 ∧ s.status.extractLsb' 14 2 = 0 ∧ s.status.extractLsb' 20 12 = 0)

/-- The reset value of every register and of the output ports (`70_reset_and_hazards.md` R122), the context registers being those INIT
would give in 512-bit mode. -/
def Obligations.ResetLeavesTheTableValues : Prop :=
  let r := core.reset
  r.h = 0 ∧ r.n = 0 ∧ r.sigma = 0 ∧ (∀ j (hj : j < 64), r.buf[j] = 0) ∧ r.fill = 0 ∧ r.w256 = false ∧
  r.phase = .idle ∧ r.cause = 0 ∧ r.busy = false ∧ r.status = 0 ∧ r.digest = 0 ∧ r.cmdReady = true ∧
  exec (.init false) r = .next { r with phase := .active }

/-- Reset is taken in every phase and wins over a command at the same edge; while BUSY = 1 it aborts the command in progress, none of
whose effects survive (`70_reset_and_hazards.md` R121 to R123; `60_exceptions.md` R109). The model's choices in it: the queue, from which a
reset takes itself alone (log entries 1 and 14), and `cmd_ready` = 1 right after an edge with `rst` = 1, where R122 gives it only
once `rst` = 0 (log entry 14, unsafe there). -/
def Obligations.ResetAbortsAndRestores : Prop :=
  (∀ (s : State) (rest : List HostInput), s.inputs = .reset :: rest →
    ∃ t, step s = .next t ∧ t.settled = State.reset ∧ t.inputs = rest) ∧
  (∀ (p : Pins) (s : State), p.rst = true →
    ∃ t, clockEdge p s = .next t ∧ t.settled = State.reset ∧ t.cmdReady = true ∧ edgeInput p s = [.reset]) ∧
  ∀ (p q : Pins) (s t : State), p.rst = false → clockEdge p s = .next t → q.rst = true →
    ∃ u v, clockEdge q t = .next u ∧ clockEdge q s = .next v ∧ u.settled = v.settled ∧ u.outputs = v.outputs

/-! ### The step -/

/-- A step runs the decoded command: with a command pending whose word decodes, the step is `exec` of it once BUSY has fallen, the
command being taken from the pending inputs (`42_context_commands.md` R81; `70_reset_and_hazards.md` R126). The queue and the wait are the
model's choice, log entries 1 and 3. -/
def Obligations.StepRunsTheDecodedCommand : Prop :=
  ∀ (s : State) (word : CmdWord) (data : Word512) (rest : List HostInput) (i : Instr),
    s.inputs = .command word data :: rest → decode word data = .ok i →
    step s = exec i { s with inputs := rest, busyLeft := 0 }

/-- A step on a word that does not decode takes its misuse, and changes nothing in FAULT (`42_context_commands.md` R81). The queue and
the wait are the model's choice, log entries 1 and 3. -/
def Obligations.StepRaisesTheDecodersMisuse : Prop :=
  ∀ (s : State) (word : CmdWord) (data : Word512) (rest : List HostInput) (c : Misuse),
    s.inputs = .command word data :: rest → decode word data = .error c →
    (s.phase ≠ .fault →
      step s = .next { s with inputs := rest, busyLeft := 0, phase := .fault, cause := c.code }) ∧
    (s.phase = .fault → step s = .next { s with inputs := rest, busyLeft := 0 })

/-- Every step answers a next state, with BUSY = 0 in it, so BUSY is 0 in every state the model reaches; with nothing pending the state is
held (`10_state.md` R16; `42_context_commands.md` R104; `70_reset_and_hazards.md` R126). The queue of inputs and the wait are the model's choice,
log entries 1 and 3. -/
def Obligations.EveryStepEndsReady : Prop :=
  (∀ s : State, ∃ t, step s = .next t ∧ t.busy = false ∧ t.cmdReady = true ∧ t.inputs = s.inputs.tail) ∧
  ∀ s : State, s.inputs = [] → s.busy = false → step s = .next s

/-- Steps take the host's inputs in the order of acceptance: as many steps as there are inputs run them all, and the outputs then show
their effects (`20_memory.md` R40). The queue is the model's choice, log entry 1. -/
def Obligations.StepsTakeInputsInOrder : Prop :=
  ∀ (l rest : List HostInput) (s : State), s.inputs = l ++ rest →
    ∃ t, core.run l.length s = .next t ∧ takeInputs l { s with inputs := rest } = .next t ∧ t.inputs = rest

/-- The invariant of the registers is kept by every step (`10_state.md` R14, R15; `42_context_commands.md` R98). -/
def Obligations.EveryStepKeepsTheInvariant : Prop :=
  ∀ s t : State, s.Inv → step s = .next t → t.Inv

/-- The state after reset has the invariant (`70_reset_and_hazards.md` R122). -/
def Obligations.ResetHasTheInvariant : Prop := State.reset.Inv

/-- The buffer's tail cannot be told apart at any output: from two states that differ there alone, any host inputs give equal outputs and
states that again differ there alone (`10_state.md` R13). -/
def Obligations.BufferTailIsUnobservable : Prop :=
  ∀ (l : List HostInput) (s t : State), SameButTail s t →
    ∃ s' t', takeInputs l s = .next s' ∧ takeInputs l t = .next t' ∧ SameButTail s' t' ∧ s'.outputs = t'.outputs

/-! ### Messages -/

/-- Chunking invariance: two sequences of legal ABSORBs that carry the same bytes end with the same h, N, Sigma, fill and valid bytes,
and FINALIZE gives the same digest after both (`42_context_commands.md` R97). -/
def Obligations.ChunkingDoesNotMatter : Prop :=
  ∀ (cs ds : List Instr) (s : State), s.phase = .active →
    (∀ i ∈ cs, isLegalAbsorb i = true) → (∀ i ∈ ds, isLegalAbsorb i = true) → message cs = message ds →
    ∃ t u, runCommands cs s = .next t ∧ runCommands ds s = .next u ∧ SameButTail t u ∧
      ∃ t' u', exec .finalize t = .next t' ∧ exec .finalize u = .next u' ∧
        t'.digest = u'.digest ∧ t'.digestBytes = u'.digestBytes

/-- Length correctness: after k message bytes from INIT, N is `512 * floor(k / 64) = 8 * (k - k mod 64)` mod 2^512 and fill is
`k mod 64`; after FINALIZE N is `8 * k` mod 2^512 (`42_context_commands.md` R98). -/
def Obligations.CounterCountsTheMessageBits : Prop :=
  ∀ (w : Bool) (cs : List Instr) (s : State), s.phase ≠ .fault → (∀ i ∈ cs, isLegalAbsorb i = true) →
    let k := (message cs).length
    ∃ t u, runCommands (.init w :: cs) s = .next t ∧ exec .finalize t = .next u ∧
      t.n.toNat = 512 * (k / 64) % 2 ^ 512 ∧ t.n.toNat = 8 * (k - k % 64) % 2 ^ 512 ∧ t.fill.toNat = k % 64 ∧
      u.n.toNat = 8 * k % 2 ^ 512

/-- Checksum: after k bytes Sigma is the sum mod 2^512 of the whole blocks, and after FINALIZE it also includes the padded block
(`42_context_commands.md` R99). -/
def Obligations.ChecksumSumsTheBlocks : Prop :=
  ∀ (w : Bool) (cs : List Instr) (s : State), s.phase ≠ .fault → (∀ i ∈ cs, isLegalAbsorb i = true) →
    let bytes := message cs
    let q := bytes.length / 64
    ∃ t u, runCommands (.init w :: cs) s = .next t ∧ exec .finalize t = .next u ∧
      t.sigma.toNat = (∑ i ∈ Finset.range q, (messageBlock bytes i).toNat) % 2 ^ 512 ∧
      u.sigma.toNat =
        (∑ i ∈ Finset.range q, (messageBlock bytes i).toNat + (messageBlock (bytes ++ [0x01]) q).toNat) % 2 ^ 512

/-- The core computes the hash: INIT, any ABSORBs and FINALIZE end with the final chaining value that the padding, the chain, the length and the
checksum give for the message alone, and the digest's bytes are its bytes (`42_context_commands.md` R90, R92, R97). -/
def Obligations.CoreComputesTheHash : Prop :=
  ∀ (w : Bool) (cs : List Instr) (s : State), s.phase ≠ .fault → s.busy = false →
    (∀ i ∈ cs, isLegalAbsorb i = true) →
    ∃ t, runCommands (.init w :: (cs ++ [.finalize])) s = .next t ∧ t.phase = .done ∧
      t.h = hashValue w (message cs) ∧ t.digestBytes = hashBytes w (message cs)

/-! ### The clock -/

/-- While BUSY = 1 the core accepts no command: `cmd_ready` is 0, an edge takes nothing and leaves every register, whatever the host
offers; with BUSY = 0 an offered command is accepted at that edge and BUSY rises (`10_state.md` R23; `70_reset_and_hazards.md`
R127). The model's choices in it, log entry 3: the registers take the effect at the accepting edge and stay while BUSY = 1, and BUSY is
a count that falls by one an edge. -/
def Obligations.NoCommandIsAcceptedWhileBusy : Prop :=
  ∀ (p : Pins) (s : State), p.rst = false →
    (s.busy = true → s.cmdReady = false ∧ edgeInput p s = [] ∧
      (∀ q : Pins, q.rst = false → clockEdge q s = clockEdge p s) ∧
      ∃ t, clockEdge p s = .next t ∧ t.settled = s.settled ∧ t.busyLeft + 1 = s.busyLeft) ∧
    (s.busy = false → p.cmdValid = true → s.cmdReady = true ∧
      ∃ t u, acceptCommand p.cmdWord p.cmdData s = .next t ∧ clockEdge p s = .next u ∧
        u.settled = t.settled ∧ u.busy = true) ∧
    (s.busy = false → p.cmdValid = false → clockEdge p s = .next s)

/-- Every accepted command completes: after as many edges as BUSY has left, whatever the host offers short of a reset, BUSY is 0 and the
registers are those the command gave (`70_reset_and_hazards.md` R131, which gives a finite number of cycles). The model's choices in it, log
entry 3: the number of cycles is held as a count, and the registers already hold the command's effect while BUSY = 1. -/
def Obligations.BusyFallsAfterItsCycles : Prop :=
  ∀ (ps : List Pins) (s : State), (∀ p ∈ ps, p.rst = false) → ps.length = s.busyLeft →
    ∃ t, clockRun 0 ps s = .next t ∧ t.busy = false ∧ t.settled = s.settled ∧ takenInputs ps s = []

/-- The clocked core refines the command stream: whatever the pins and the latencies, a run of edges ends with the registers that the inputs
it took give when each is one atomic step in order, and with the same outputs once BUSY = 0 (`70_reset_and_hazards.md` R126;
`20_memory.md` R40, which speaks of the outputs with BUSY = 0). That the registers agree also while BUSY = 1 is the model's choice of writing
them at acceptance, log entry 3. -/
def Obligations.ClockedRunRefinesTheCommandStream : Prop :=
  ∀ (held : Nat) (ps : List Pins) (s t : State), clockRun held ps s = .next t →
    ∃ u, takeInputs (takenInputs ps s) s = .next u ∧ t.settled = u.settled ∧
      (t.busy = false → t.outputs = (awaitReady u).outputs)
end

