-- ==== Sys2Proof/Laws/Bytes.lean ====
section
/-! SUPPORT. The byte and limb views: what a joined word shows in each lane, and that a word is its lanes. Proofs over the datapath cite
these and do not unfold `byte`, `limb` or the joins. -/

namespace Sys2Proof.Machine

/-- Bit i of joined byte lanes is bit `i mod 8` of lane `i div 8`, and 0 above the lanes. -/
theorem getLsbD_joinBytes (lane : Nat → Byte) (k i : Nat) (hi : i < 512) :
    (joinBytes lane k).getLsbD i = (decide (i < 8 * k) && (lane (i / 8)).getLsbD (i % 8)) := by
  induction k with
  | zero => simp [joinBytes]
  | succ k ih =>
    rw [joinBytes, BitVec.getLsbD_or, ih, BitVec.getLsbD_shiftLeft, BitVec.getLsbD_setWidth]
    by_cases h : i < 8 * k
    · simp [hi, h, show i < 8 * (k + 1) by omega]
    · by_cases h' : i < 8 * (k + 1)
      · simp [hi, h, h', show i - 8 * k < 512 by omega, show i / 8 = k by omega, show i % 8 = i - 8 * k by omega]
      · rw [BitVec.getLsbD_of_ge (lane k) (i - 8 * k) (by omega)]
        simp [h, h']

/-- Bit i of joined limb lanes is bit `i mod 64` of lane `i div 64`, and 0 above the lanes. -/
theorem getLsbD_joinLimbs (lane : Nat → Limb) (k i : Nat) (hi : i < 512) :
    (joinLimbs lane k).getLsbD i = (decide (i < 64 * k) && (lane (i / 64)).getLsbD (i % 64)) := by
  induction k with
  | zero => simp [joinLimbs]
  | succ k ih =>
    rw [joinLimbs, BitVec.getLsbD_or, ih, BitVec.getLsbD_shiftLeft, BitVec.getLsbD_setWidth]
    by_cases h : i < 64 * k
    · simp [hi, h, show i < 64 * (k + 1) by omega]
    · by_cases h' : i < 64 * (k + 1)
      · simp [hi, h, h', show i - 64 * k < 512 by omega, show i / 64 = k by omega, show i % 64 = i - 64 * k by omega]
      · rw [BitVec.getLsbD_of_ge (lane k) (i - 64 * k) (by omega)]
        simp [h, h']

theorem getLsbD_byte (w : Word512) (j i : Nat) : (byte w j).getLsbD i = (decide (i < 8) && w.getLsbD (8 * j + i)) :=
  BitVec.getLsbD_extractLsb' ..

theorem getLsbD_limb (w : Word512) (j i : Nat) : (limb w j).getLsbD i = (decide (i < 64) && w.getLsbD (64 * j + i)) :=
  BitVec.getLsbD_extractLsb' ..

/-- Byte j of the Word512 made of byte lanes is lane j. -/
@[simp] theorem byte_ofByteLanes (lane : Nat → Byte) (j : Nat) (hj : j < 64) : byte (ofByteLanes lane) j = lane j := by
  apply BitVec.eq_of_getLsbD_eq
  intro i hi
  rw [getLsbD_byte, ofByteLanes, getLsbD_joinBytes _ _ _ (by omega)]
  simp [hi, show 8 * j + i < 8 * 64 by omega, show (8 * j + i) / 8 = j by omega, show (8 * j + i) % 8 = i by omega]

/-- Limb i of the Word512 made of limb lanes is lane i. -/
@[simp] theorem limb_ofLimbLanes (lane : Nat → Limb) (i : Nat) (hi : i < 8) : limb (ofLimbLanes lane) i = lane i := by
  apply BitVec.eq_of_getLsbD_eq
  intro k hk
  rw [getLsbD_limb, ofLimbLanes, getLsbD_joinLimbs _ _ _ (by omega)]
  simp [hk, show 64 * i + k < 64 * 8 by omega, show (64 * i + k) / 64 = i by omega,
    show (64 * i + k) % 64 = k by omega]

/-- A Word512 is its 64 bytes. -/
theorem eq_of_bytes {v w : Word512} (h : ∀ j, j < 64 → byte v j = byte w j) : v = w := by
  apply BitVec.eq_of_getLsbD_eq
  intro i hi
  have hb := congrArg (fun b => BitVec.getLsbD b (i % 8)) (h (i / 8) (by omega))
  simp only [getLsbD_byte] at hb
  rwa [decide_eq_true (show i % 8 < 8 by omega), Bool.true_and, Bool.true_and,
    show 8 * (i / 8) + i % 8 = i by omega] at hb

/-- A Word512 is its 8 limbs. -/
theorem eq_of_limbs {v w : Word512} (h : ∀ i, i < 8 → limb v i = limb w i) : v = w := by
  apply BitVec.eq_of_getLsbD_eq
  intro i hi
  have hb := congrArg (fun b => BitVec.getLsbD b (i % 64)) (h (i / 64) (by omega))
  simp only [getLsbD_limb] at hb
  rwa [decide_eq_true (show i % 64 < 64 by omega), Bool.true_and, Bool.true_and,
    show 64 * (i / 64) + i % 64 = i by omega] at hb

/-- Joining the bytes of a word gives the word. -/
@[simp] theorem ofByteLanes_byte (w : Word512) : ofByteLanes (byte w) = w :=
  eq_of_bytes fun j hj => byte_ofByteLanes _ j hj

/-- Byte lanes that agree below 64 join to the same word. -/
theorem ofByteLanes_congr {a b : Nat → Byte} (h : ∀ j, j < 64 → a j = b j) : ofByteLanes a = ofByteLanes b :=
  eq_of_bytes fun j hj => by rw [byte_ofByteLanes _ j hj, byte_ofByteLanes _ j hj, h j hj]

/-- Byte j of `from_bytes` is byte j of the buffer. -/
theorem byte_fromBytes (b : Vector Byte 64) (j : Nat) (hj : j < 64) : byte (fromBytes b) j = b[j] := by
  rw [fromBytes, byte_ofByteLanes _ j hj]
  simp [Vector.getD, hj]

/-- Byte j of `to_bytes` is byte j of the word. -/
@[simp] theorem toBytes_getElem (w : Word512) (j : Nat) (hj : j < 64) : (toBytes w)[j] = byte w j := by
  simp [toBytes]

end Sys2Proof.Machine
end

