-- ==== Sys2Proof/Laws/State.lean ====
section
/-! SUPPORT. One lemma per field per update of the state, each true by definition, so that no proof unfolds a record update. -/

namespace Sys2Proof.Machine

/-! The fields after the fault step. -/

@[simp] theorem raiseMisuse_h (c : Misuse) (s : State) : (raiseMisuse c s).h = s.h := rfl
@[simp] theorem raiseMisuse_n (c : Misuse) (s : State) : (raiseMisuse c s).n = s.n := rfl
@[simp] theorem raiseMisuse_sigma (c : Misuse) (s : State) : (raiseMisuse c s).sigma = s.sigma := rfl
@[simp] theorem raiseMisuse_buf (c : Misuse) (s : State) : (raiseMisuse c s).buf = s.buf := rfl
@[simp] theorem raiseMisuse_fill (c : Misuse) (s : State) : (raiseMisuse c s).fill = s.fill := rfl
@[simp] theorem raiseMisuse_w256 (c : Misuse) (s : State) : (raiseMisuse c s).w256 = s.w256 := rfl
@[simp] theorem raiseMisuse_phase (c : Misuse) (s : State) : (raiseMisuse c s).phase = .fault := rfl
@[simp] theorem raiseMisuse_cause (c : Misuse) (s : State) : (raiseMisuse c s).cause = c.code := rfl
@[simp] theorem raiseMisuse_busyLeft (c : Misuse) (s : State) : (raiseMisuse c s).busyLeft = s.busyLeft := rfl
@[simp] theorem raiseMisuse_inputs (c : Misuse) (s : State) : (raiseMisuse c s).inputs = s.inputs := rfl
@[simp] theorem raiseMisuse_draws (c : Misuse) (s : State) : (raiseMisuse c s).draws = s.draws := rfl

/-! The fields after reset. -/

@[simp] theorem takeReset_h (s : State) : (takeReset s).h = 0 := rfl
@[simp] theorem takeReset_n (s : State) : (takeReset s).n = 0 := rfl
@[simp] theorem takeReset_sigma (s : State) : (takeReset s).sigma = 0 := rfl
@[simp] theorem takeReset_buf (s : State) : (takeReset s).buf = Vector.replicate 64 0 := rfl
@[simp] theorem takeReset_fill (s : State) : (takeReset s).fill = 0 := rfl
@[simp] theorem takeReset_w256 (s : State) : (takeReset s).w256 = false := rfl
@[simp] theorem takeReset_phase (s : State) : (takeReset s).phase = .idle := rfl
@[simp] theorem takeReset_cause (s : State) : (takeReset s).cause = 0 := rfl
@[simp] theorem takeReset_busyLeft (s : State) : (takeReset s).busyLeft = 0 := rfl
@[simp] theorem takeReset_inputs (s : State) : (takeReset s).inputs = s.inputs := rfl
@[simp] theorem takeReset_draws (s : State) : (takeReset s).draws = s.draws := rfl

/-! The fields after the fall of BUSY. -/

@[simp] theorem awaitReady_h (s : State) : (awaitReady s).h = s.h := rfl
@[simp] theorem awaitReady_n (s : State) : (awaitReady s).n = s.n := rfl
@[simp] theorem awaitReady_sigma (s : State) : (awaitReady s).sigma = s.sigma := rfl
@[simp] theorem awaitReady_buf (s : State) : (awaitReady s).buf = s.buf := rfl
@[simp] theorem awaitReady_fill (s : State) : (awaitReady s).fill = s.fill := rfl
@[simp] theorem awaitReady_w256 (s : State) : (awaitReady s).w256 = s.w256 := rfl
@[simp] theorem awaitReady_phase (s : State) : (awaitReady s).phase = s.phase := rfl
@[simp] theorem awaitReady_cause (s : State) : (awaitReady s).cause = s.cause := rfl
@[simp] theorem awaitReady_busyLeft (s : State) : (awaitReady s).busyLeft = 0 := rfl
@[simp] theorem awaitReady_inputs (s : State) : (awaitReady s).inputs = s.inputs := rfl
@[simp] theorem awaitReady_draws (s : State) : (awaitReady s).draws = s.draws := rfl

/-! The fields after INIT's effect. -/

@[simp] theorem openContext_h (w : Bool) (s : State) : (openContext w s).h = if w then iv256 else iv512 := rfl
@[simp] theorem openContext_n (w : Bool) (s : State) : (openContext w s).n = zeroWord := rfl
@[simp] theorem openContext_sigma (w : Bool) (s : State) : (openContext w s).sigma = zeroWord := rfl
@[simp] theorem openContext_buf (w : Bool) (s : State) : (openContext w s).buf = Vector.replicate 64 0x00 := rfl
@[simp] theorem openContext_fill (w : Bool) (s : State) : (openContext w s).fill = 0 := rfl
@[simp] theorem openContext_w256 (w : Bool) (s : State) : (openContext w s).w256 = w := rfl
@[simp] theorem openContext_phase (w : Bool) (s : State) : (openContext w s).phase = .active := rfl
@[simp] theorem openContext_cause (w : Bool) (s : State) : (openContext w s).cause = s.cause := rfl
@[simp] theorem openContext_busyLeft (w : Bool) (s : State) : (openContext w s).busyLeft = s.busyLeft := rfl
@[simp] theorem openContext_inputs (w : Bool) (s : State) : (openContext w s).inputs = s.inputs := rfl
@[simp] theorem openContext_draws (w : Bool) (s : State) : (openContext w s).draws = s.draws := rfl

/-! The fields after COMPRESS. -/

@[simp] theorem compress_h (m : Word512) (s : State) : (compress m s).h = g s.h s.n m := rfl
@[simp] theorem compress_n (m : Word512) (s : State) : (compress m s).n = add512 s.n const512 := rfl
@[simp] theorem compress_sigma (m : Word512) (s : State) : (compress m s).sigma = add512 s.sigma m := rfl
@[simp] theorem compress_buf (m : Word512) (s : State) : (compress m s).buf = s.buf := rfl
@[simp] theorem compress_fill (m : Word512) (s : State) : (compress m s).fill = s.fill := rfl
@[simp] theorem compress_w256 (m : Word512) (s : State) : (compress m s).w256 = s.w256 := rfl
@[simp] theorem compress_phase (m : Word512) (s : State) : (compress m s).phase = s.phase := rfl
@[simp] theorem compress_cause (m : Word512) (s : State) : (compress m s).cause = s.cause := rfl
@[simp] theorem compress_busyLeft (m : Word512) (s : State) : (compress m s).busyLeft = s.busyLeft := rfl
@[simp] theorem compress_inputs (m : Word512) (s : State) : (compress m s).inputs = s.inputs := rfl
@[simp] theorem compress_draws (m : Word512) (s : State) : (compress m s).draws = s.draws := rfl

/-! The fields after the rise of BUSY. -/

@[simp] theorem startBusy_h (word : CmdWord) (data : Word512) (s : State) : (startBusy word data s).h = s.h := rfl
@[simp] theorem startBusy_n (word : CmdWord) (data : Word512) (s : State) : (startBusy word data s).n = s.n := rfl
@[simp] theorem startBusy_sigma (word : CmdWord) (data : Word512) (s : State) : (startBusy word data s).sigma = s.sigma := rfl
@[simp] theorem startBusy_buf (word : CmdWord) (data : Word512) (s : State) : (startBusy word data s).buf = s.buf := rfl
@[simp] theorem startBusy_fill (word : CmdWord) (data : Word512) (s : State) : (startBusy word data s).fill = s.fill := rfl
@[simp] theorem startBusy_w256 (word : CmdWord) (data : Word512) (s : State) : (startBusy word data s).w256 = s.w256 := rfl
@[simp] theorem startBusy_phase (word : CmdWord) (data : Word512) (s : State) : (startBusy word data s).phase = s.phase := rfl
@[simp] theorem startBusy_cause (word : CmdWord) (data : Word512) (s : State) : (startBusy word data s).cause = s.cause := rfl
@[simp] theorem startBusy_busyLeft (word : CmdWord) (data : Word512) (s : State) : (startBusy word data s).busyLeft = Config.latency word data s.draws := rfl
@[simp] theorem startBusy_inputs (word : CmdWord) (data : Word512) (s : State) : (startBusy word data s).inputs = s.inputs := rfl
@[simp] theorem startBusy_draws (word : CmdWord) (data : Word512) (s : State) : (startBusy word data s).draws = s.draws + 1 := rfl

/-! The fields after one edge of the wait. -/

@[simp] theorem tickBusy_h (s : State) : (tickBusy s).h = s.h := rfl
@[simp] theorem tickBusy_n (s : State) : (tickBusy s).n = s.n := rfl
@[simp] theorem tickBusy_sigma (s : State) : (tickBusy s).sigma = s.sigma := rfl
@[simp] theorem tickBusy_buf (s : State) : (tickBusy s).buf = s.buf := rfl
@[simp] theorem tickBusy_fill (s : State) : (tickBusy s).fill = s.fill := rfl
@[simp] theorem tickBusy_w256 (s : State) : (tickBusy s).w256 = s.w256 := rfl
@[simp] theorem tickBusy_phase (s : State) : (tickBusy s).phase = s.phase := rfl
@[simp] theorem tickBusy_cause (s : State) : (tickBusy s).cause = s.cause := rfl
@[simp] theorem tickBusy_busyLeft (s : State) : (tickBusy s).busyLeft = s.busyLeft - 1 := rfl
@[simp] theorem tickBusy_inputs (s : State) : (tickBusy s).inputs = s.inputs := rfl
@[simp] theorem tickBusy_draws (s : State) : (tickBusy s).draws = s.draws + 1 := rfl

/-! The fields after what a waiting host sees. -/

@[simp] theorem State.settled_h (s : State) : (s.settled).h = s.h := rfl
@[simp] theorem State.settled_n (s : State) : (s.settled).n = s.n := rfl
@[simp] theorem State.settled_sigma (s : State) : (s.settled).sigma = s.sigma := rfl
@[simp] theorem State.settled_buf (s : State) : (s.settled).buf = s.buf := rfl
@[simp] theorem State.settled_fill (s : State) : (s.settled).fill = s.fill := rfl
@[simp] theorem State.settled_w256 (s : State) : (s.settled).w256 = s.w256 := rfl
@[simp] theorem State.settled_phase (s : State) : (s.settled).phase = s.phase := rfl
@[simp] theorem State.settled_cause (s : State) : (s.settled).cause = s.cause := rfl
@[simp] theorem State.settled_busyLeft (s : State) : (s.settled).busyLeft = 0 := rfl
@[simp] theorem State.settled_inputs (s : State) : (s.settled).inputs = [] := rfl
@[simp] theorem State.settled_draws (s : State) : (s.settled).draws = 0 := rfl

/-! The fields after placing a transfer. -/

@[simp] theorem State.withFetchWord_h (s : State) (nbits w : Nat) : (s.withFetchWord nbits w).h = s.h := rfl
@[simp] theorem State.withFetchWord_n (s : State) (nbits w : Nat) : (s.withFetchWord nbits w).n = s.n := rfl
@[simp] theorem State.withFetchWord_sigma (s : State) (nbits w : Nat) : (s.withFetchWord nbits w).sigma = s.sigma := rfl
@[simp] theorem State.withFetchWord_buf (s : State) (nbits w : Nat) : (s.withFetchWord nbits w).buf = s.buf := rfl
@[simp] theorem State.withFetchWord_fill (s : State) (nbits w : Nat) : (s.withFetchWord nbits w).fill = s.fill := rfl
@[simp] theorem State.withFetchWord_w256 (s : State) (nbits w : Nat) : (s.withFetchWord nbits w).w256 = s.w256 := rfl
@[simp] theorem State.withFetchWord_phase (s : State) (nbits w : Nat) : (s.withFetchWord nbits w).phase = s.phase := rfl
@[simp] theorem State.withFetchWord_cause (s : State) (nbits w : Nat) : (s.withFetchWord nbits w).cause = s.cause := rfl
@[simp] theorem State.withFetchWord_busyLeft (s : State) (nbits w : Nat) : (s.withFetchWord nbits w).busyLeft = s.busyLeft := rfl
@[simp] theorem State.withFetchWord_inputs (s : State) (nbits w : Nat) : (s.withFetchWord nbits w).inputs = .command (transferOf nbits w).1 (transferOf nbits w).2 :: s.inputs := rfl
@[simp] theorem State.withFetchWord_draws (s : State) (nbits w : Nat) : (s.withFetchWord nbits w).draws = s.draws := rfl

/-! The fields after FINALIZE's effect. -/

@[simp] theorem finalizeContext_n (s : State) : (finalizeContext s).n = add512 s.n (bitLength s.fill) := rfl
@[simp] theorem finalizeContext_buf (s : State) : (finalizeContext s).buf = padBuffer s.buf s.fill.toNat := rfl
@[simp] theorem finalizeContext_fill (s : State) : (finalizeContext s).fill = 0 := rfl
@[simp] theorem finalizeContext_w256 (s : State) : (finalizeContext s).w256 = s.w256 := rfl
@[simp] theorem finalizeContext_phase (s : State) : (finalizeContext s).phase = .done := rfl
@[simp] theorem finalizeContext_cause (s : State) : (finalizeContext s).cause = s.cause := rfl
@[simp] theorem finalizeContext_busyLeft (s : State) : (finalizeContext s).busyLeft = s.busyLeft := rfl
@[simp] theorem finalizeContext_inputs (s : State) : (finalizeContext s).inputs = s.inputs := rfl
@[simp] theorem finalizeContext_draws (s : State) : (finalizeContext s).draws = s.draws := rfl

/-- With BUSY = 0 the output ports are a function of the registers alone: BUSY's counter, the pending inputs and the index of the free values
do not show. -/
theorem outputs_of_settled {s t : State} (h : s.settled = t.settled) (hs : s.busy = false) (ht : t.busy = false) :
    s.outputs = t.outputs := by
  have hh : s.h = t.h := by simpa using congrArg State.h h
  have hw : s.w256 = t.w256 := by simpa using congrArg State.w256 h
  have hp : s.phase = t.phase := by simpa using congrArg State.phase h
  have hf : s.fill = t.fill := by simpa using congrArg State.fill h
  have hc : s.cause = t.cause := by simpa using congrArg State.cause h
  simp only [State.outputs, State.cmdReady, State.status, State.digest, State.dvalid, hs, ht, hh, hw, hp, hf, hc,
    Bool.false_eq_true, if_false]

end Sys2Proof.Machine
end

