-- ==== Sys2Proof/Laws/Ops.lean ====
section
/-! SUPPORT. What each shared operation can do, said once: the phase gates, the buffer writes, the meanings, the decoder's outcomes
and one accepted command. -/

namespace Sys2Proof.Machine

/-- The FAULT gate keeps a state in FAULT and otherwise gives the effect. -/
theorem unlessFault_of_fault {s : State} (t : State) (h : s.phase = .fault) : unlessFault s t = s := if_pos h

theorem unlessFault_of_ne {s : State} (t : State) (h : s.phase ≠ .fault) : unlessFault s t = t := if_neg h

theorem whenActive_of_active {s : State} (t : State) (h : s.phase = .active) : whenActive s t = t := by
  simp [whenActive, h]

theorem whenActive_of_idle {s : State} (t : State) (h : s.phase = .idle) :
    whenActive s t = raiseMisuse .noContext s := by
  simp [whenActive, h]

theorem whenActive_of_done {s : State} (t : State) (h : s.phase = .done) :
    whenActive s t = raiseMisuse .consumed s := by
  simp [whenActive, h]

theorem whenActive_of_fault {s : State} (t : State) (h : s.phase = .fault) : whenActive s t = s := by
  simp [whenActive, h]

/-- A byte of the buffer after a write is the source's where it was written, and what it was elsewhere. -/
theorem writeBytes_getElem (buf : Vector Byte 64) (start count : Nat) (src : Nat → Byte) (j : Nat) (hj : j < 64) :
    (writeBytes buf start count src)[j] = if start ≤ j ∧ j < start + count then src (j - start) else buf[j] := by
  simp [writeBytes]

/-- Writing nothing leaves the buffer. -/
@[simp] theorem writeBytes_zero (buf : Vector Byte 64) (start : Nat) (src : Nat → Byte) :
    writeBytes buf start 0 src = buf := by
  apply Vector.ext
  intro j hj
  rw [writeBytes_getElem, if_neg (by omega)]

/-- A byte of the padded block: the message below the fill level, the marker at it, zero above. -/
theorem padBuffer_getElem (buf : Vector Byte 64) (f j : Nat) (hj : j < 64) :
    (padBuffer buf f)[j] = if j < f then buf[j] else if j = f then 0x01 else 0x00 := by
  rw [padBuffer, writeBytes_getElem, writeBytes_getElem]
  by_cases h : j < f
  · simp [h, show ¬f ≤ j by omega]
  · by_cases h' : j = f
    · simp [h']
    · simp [h, h', show f ≤ j by omega, show ¬j < f + 1 by omega, show j < f + (64 - f) by omega]

/-- The word of a block given by the lanes of the data is the data. -/
@[simp] theorem ofByteLanes_messageByte (data : Word512) : ofByteLanes (messageByte data) = data :=
  ofByteLanes_byte data

/-- What INIT can do. -/
theorem execInit_cases (w : Bool) (s : State) :
    (s.phase = .fault ∧ execInit w s = .next s) ∨
      (s.phase ≠ .fault ∧ execInit w s = .next (openContext w s)) := by
  by_cases h : s.phase = .fault
  · exact .inl ⟨h, by rw [execInit, unlessFault_of_fault _ h]⟩
  · exact .inr ⟨h, by rw [execInit, unlessFault_of_ne _ h]⟩

/-- What ABSORB can do. -/
theorem execAbsorb_cases (len : BitVec 7) (data : Word512) (s : State) :
    (s.phase = .fault ∧ execAbsorb len data s = .next s) ∨
    (s.phase ≠ .fault ∧ lenLegal len = false ∧ execAbsorb len data s = .next (raiseMisuse .badLength s)) ∨
    (s.phase = .idle ∧ lenLegal len = true ∧ execAbsorb len data s = .next (raiseMisuse .noContext s)) ∨
    (s.phase = .done ∧ lenLegal len = true ∧ execAbsorb len data s = .next (raiseMisuse .consumed s)) ∨
    (s.phase = .active ∧ lenLegal len = true ∧
      execAbsorb len data s = .next (absorbBytes len.toNat data s)) := by
  cases hp : s.phase <;> cases hl : lenLegal len <;>
    simp [execAbsorb, unlessFault, whenActive, hp, hl]

/-- What FINALIZE can do. -/
theorem execFinalize_cases (s : State) :
    (s.phase = .fault ∧ execFinalize s = .next s) ∨
    (s.phase = .idle ∧ execFinalize s = .next (raiseMisuse .noContext s)) ∨
    (s.phase = .done ∧ execFinalize s = .next (raiseMisuse .consumed s)) ∨
    (s.phase = .active ∧ execFinalize s = .next (finalizeContext s)) := by
  cases hp : s.phase <;> simp [execFinalize, unlessFault, whenActive, hp]

/-- What ABSORB's effect can do: a whole block on an empty buffer, an append, or a flush. -/
theorem absorbBytes_cases (len : Nat) (data : Word512) (s : State) (hl : len ≤ 64) :
    (s.fill.toNat = 0 ∧ len = 64 ∧ absorbBytes len data s = compress data s) ∨
    (s.fill.toNat + len < 64 ∧
      absorbBytes len data s =
        { s with
          buf := writeBytes s.buf s.fill.toNat len (messageByte data)
          fill := BitVec.ofNat 6 (s.fill.toNat + len) }) ∨
    (0 < s.fill.toNat ∧ 64 ≤ s.fill.toNat + len ∧
      absorbBytes len data s =
        let buf := writeBytes s.buf s.fill.toNat (64 - s.fill.toNat) (messageByte data)
        { compress (fromBytes buf) s with
          buf := writeBytes buf 0 (s.fill.toNat + len - 64) fun j => messageByte data (64 - s.fill.toNat + j)
          fill := BitVec.ofNat 6 (s.fill.toNat + len - 64) }) := by
  have hf : s.fill.toNat < 64 := s.fill.isLt
  by_cases hd : s.fill.toNat = 0 ∧ len = 64
  · exact .inl ⟨hd.1, hd.2, by rw [absorbBytes, if_pos hd, ofByteLanes_messageByte]⟩
  · right
    rw [absorbBytes, if_neg hd]
    by_cases h : s.fill.toNat + len < 64
    · left
      refine ⟨h, ?_⟩
      have ht : min (64 - s.fill.toNat) len = len := by omega
      simp only [absorbBuffered, ht]
      rw [if_neg (by omega)]
    · right
      refine ⟨by omega, by omega, ?_⟩
      have ht : min (64 - s.fill.toNat) len = 64 - s.fill.toNat := by omega
      have hr : len - (64 - s.fill.toNat) = s.fill.toNat + len - 64 := by omega
      simp only [absorbBuffered, ht, hr]
      rw [if_pos (by omega)]

theorem lenLegal_iff (len : BitVec 7) : lenLegal len = true ↔ len.toNat ≤ 64 := by simp [lenLegal]

/-- What a command can do, over all commands: be ignored, take a misuse, open a context, absorb, or finalize. -/
theorem exec_cases {i : Instr} {s t : State} (h : exec i s = .next t) :
    (s.phase = .fault ∧ t = s) ∨
    (s.phase ≠ .fault ∧ ∃ c, (∀ w, i ≠ .init w) ∧ t = raiseMisuse c s) ∨
    (s.phase ≠ .fault ∧ ∃ w, i = .init w ∧ t = openContext w s) ∨
    (s.phase = .active ∧ ∃ len data, i = .absorb len data ∧ len.toNat ≤ 64 ∧ t = absorbBytes len.toNat data s) ∨
    (s.phase = .active ∧ i = .finalize ∧ t = finalizeContext s) := by
  cases i with
  | init w =>
    obtain ⟨a, b⟩ | ⟨a, b⟩ := execInit_cases w s <;> have h := b.symm.trans h <;> cases h
    · exact .inl ⟨a, rfl⟩
    · exact .inr (.inr (.inl ⟨a, w, rfl, rfl⟩))
  | absorb len data =>
    obtain ⟨a, b⟩ | ⟨a, l, b⟩ | ⟨a, l, b⟩ | ⟨a, l, b⟩ | ⟨a, l, b⟩ := execAbsorb_cases len data s <;>
      have h := b.symm.trans h <;> cases h
    · exact .inl ⟨a, rfl⟩
    · exact .inr (.inl ⟨a, _, by simp, rfl⟩)
    · exact .inr (.inl ⟨by simp [a], _, by simp, rfl⟩)
    · exact .inr (.inl ⟨by simp [a], _, by simp, rfl⟩)
    · exact .inr (.inr (.inr (.inl ⟨a, len, data, rfl, (lenLegal_iff _).1 l, rfl⟩)))
  | finalize =>
    obtain ⟨a, b⟩ | ⟨a, b⟩ | ⟨a, b⟩ | ⟨a, b⟩ := execFinalize_cases s <;> have h := b.symm.trans h <;> cases h
    · exact .inl ⟨a, rfl⟩
    · exact .inr (.inl ⟨by simp [a], _, by simp, rfl⟩)
    · exact .inr (.inl ⟨by simp [a], _, by simp, rfl⟩)
    · exact .inr (.inr (.inr (.inr ⟨a, rfl, rfl⟩)))

/-- What ABSORB's effect leaves: the width, the phase, the cause, BUSY and the model's own fields; and N grows by one block
at most. -/
theorem absorbBytes_frame (len : Nat) (data : Word512) (s : State) (hl : len ≤ 64) :
    (absorbBytes len data s).w256 = s.w256 ∧ (absorbBytes len data s).phase = s.phase ∧
    (absorbBytes len data s).cause = s.cause ∧ (absorbBytes len data s).busyLeft = s.busyLeft ∧
    (absorbBytes len data s).inputs = s.inputs ∧ (absorbBytes len data s).draws = s.draws ∧
    ((absorbBytes len data s).n = s.n ∨ (absorbBytes len data s).n = s.n + 512) := by
  obtain ⟨_, _, e⟩ | ⟨_, e⟩ | ⟨_, _, e⟩ := absorbBytes_cases len data s hl <;> rw [e]
  · exact ⟨rfl, rfl, rfl, rfl, rfl, rfl, .inr rfl⟩
  · exact ⟨rfl, rfl, rfl, rfl, rfl, rfl, .inl rfl⟩
  · exact ⟨rfl, rfl, rfl, rfl, rfl, rfl, .inr rfl⟩

/-- Every command answers a next state. -/
theorem exec_next (i : Instr) (s : State) : ∃ t, exec i s = .next t := by
  cases i with
  | init w => exact ⟨_, rfl⟩
  | absorb len data => exact ⟨_, rfl⟩
  | finalize => exact ⟨_, rfl⟩

/-- What one accepted transfer can do: run the command it decodes to, or reject its word. -/
theorem acceptCommand_cases (word : CmdWord) (data : Word512) (s : State) :
    (∃ i, decode word data = .ok i ∧ acceptCommand word data s = exec i s) ∨
    (∃ c, decode word data = .error c ∧
      acceptCommand word data s = .next (unlessFault s (raiseMisuse c s))) := by
  cases h : decode word data with
  | ok i => exact .inl ⟨i, rfl, by rw [acceptCommand, h]⟩
  | error c => exact .inr ⟨c, rfl, by rw [acceptCommand, h]; rfl⟩

/-- What the decoder can answer. -/
theorem decode_cases (word : CmdWord) (data : Word512) :
    (opField word = 1 ∧ reservedI word = 0 ∧ decode word data = .ok (.init (wField word))) ∨
    (opField word = 2 ∧ reservedA word = 0 ∧ lenLegal (lenField word) = true ∧
      decode word data = .ok (.absorb (lenField word) data)) ∨
    (opField word = 3 ∧ reservedF word = 0 ∧ decode word data = .ok .finalize) ∨
    (opField word = 1 ∧ reservedI word ≠ 0 ∧ decode word data = .error .reservedNonzero) ∨
    (opField word = 2 ∧ reservedA word ≠ 0 ∧ decode word data = .error .reservedNonzero) ∨
    (opField word = 3 ∧ reservedF word ≠ 0 ∧ decode word data = .error .reservedNonzero) ∨
    (opField word = 2 ∧ reservedA word = 0 ∧ lenLegal (lenField word) = false ∧
      decode word data = .error .badLength) ∨
    (opField word ≠ 1 ∧ opField word ≠ 2 ∧ opField word ≠ 3 ∧
      decode word data = .error .illegalOpcode) := by
  by_cases h1 : opField word = 1
  · by_cases hr : reservedI word = 0
    · exact .inl ⟨h1, hr, by rw [decode, if_pos h1, if_pos hr]⟩
    · exact .inr (.inr (.inr (.inl ⟨h1, hr, by rw [decode, if_pos h1, if_neg hr]⟩)))
  · by_cases h2 : opField word = 2
    · by_cases hr : reservedA word = 0
      · by_cases hl : lenLegal (lenField word) = true
        · exact .inr (.inl ⟨h2, hr, hl, by rw [decode, if_neg h1, if_pos h2, if_pos hr, if_pos hl]⟩)
        · exact .inr (.inr (.inr (.inr (.inr (.inr (.inl ⟨h2, hr, Bool.eq_false_iff.2 hl,
            by rw [decode, if_neg h1, if_pos h2, if_pos hr, if_neg hl]⟩))))))
      · exact .inr (.inr (.inr (.inr (.inl ⟨h2, hr, by rw [decode, if_neg h1, if_pos h2, if_neg hr]⟩))))
    · by_cases h3 : opField word = 3
      · by_cases hr : reservedF word = 0
        · exact .inr (.inr (.inl ⟨h3, hr, by rw [decode, if_neg h1, if_neg h2, if_pos h3, if_pos hr]⟩))
        · exact .inr (.inr (.inr (.inr (.inr (.inl
            ⟨h3, hr, by rw [decode, if_neg h1, if_neg h2, if_pos h3, if_neg hr]⟩)))))
      · exact .inr (.inr (.inr (.inr (.inr (.inr (.inr
          ⟨h1, h2, h3, by rw [decode, if_neg h1, if_neg h2, if_neg h3]⟩))))))

/-- One accepted transfer always answers a next state. -/
theorem acceptCommand_next (word : CmdWord) (data : Word512) (s : State) :
    ∃ t, acceptCommand word data s = .next t := by
  obtain ⟨i, _, h⟩ | ⟨c, _, h⟩ := acceptCommand_cases word data s
  · obtain ⟨t, ht⟩ := exec_next i s
    exact ⟨t, h.trans ht⟩
  · exact ⟨_, h⟩

end Sys2Proof.Machine
end

