-- ==== Sys2Proof/Laws/PerInstr.lean ====
section
/-! SUPPORT. The family MatchesTable: the word of a well-formed command is a word of its row of `30_encoding.md` R51. -/

namespace Sys2Proof

/-- The mask of a command's row, covering OP and the reserved bits (`30_encoding.md` R51). -/
def Laws.rowMask : Instr → CmdWord
  | .init _ => 0xFFFFFFEF
  | .absorb _ _ => 0xFFFFF80F
  | .finalize => 0xFFFFFFFF

/-- The match value of a command's row (`30_encoding.md` R51). -/
def Laws.rowMatch : Instr → CmdWord
  | .init _ => 0x00000001
  | .absorb _ _ => 0x00000002
  | .finalize => 0x00000003

/-- The word of a well-formed command, masked, is the match value of its row. -/
def Laws.MatchesTable.Statement (i : Instr) : Prop :=
  i.wellFormed = true → encodeWord i &&& Laws.rowMask i = Laws.rowMatch i

theorem Laws.MatchesTable.init (w256 : Bool) : Laws.MatchesTable.Statement (.init w256) := by
  intro _
  cases w256 <;> decide

theorem Laws.MatchesTable.absorb (len : BitVec 7) (data : Word512) :
    Laws.MatchesTable.Statement (.absorb len data) := by
  intro _
  have h : ∀ l : BitVec 7,
      encodeWord (.absorb l 0) &&& Laws.rowMask (.absorb l 0) = Laws.rowMatch (.absorb l 0) := by decide
  exact h len

theorem Laws.MatchesTable.finalize : Laws.MatchesTable.Statement .finalize := by
  intro _
  decide

end Sys2Proof
end

