-- ==== Sys2Proof/Laws/Step.lean ====
section
/-! SUPPORT. What one host input, one step and one clock edge can do, said once. -/

namespace Sys2Proof.Machine

/-- What a host input can do: a reset, or a command once BUSY has fallen. -/
theorem takeInput_cases (i : HostInput) (s : State) :
    (i = .reset ∧ takeInput i s = .next (takeReset s)) ∨
    (∃ word data, i = .command word data ∧ takeInput i s = acceptCommand word data (awaitReady s)) := by
  cases i with
  | reset => exact .inl ⟨rfl, rfl⟩
  | command word data => exact .inr ⟨word, data, rfl, rfl⟩

/-- Every host input answers a next state. -/
theorem takeInput_next (i : HostInput) (s : State) : ∃ t, takeInput i s = .next t := by
  obtain ⟨_, h⟩ | ⟨word, data, _, h⟩ := takeInput_cases i s
  · exact ⟨_, h⟩
  · obtain ⟨t, ht⟩ := acceptCommand_next word data (awaitReady s)
    exact ⟨t, h.trans ht⟩

/-- What a step can do: hold, or take the next host input. -/
theorem step_cases (s : State) :
    (s.inputs = [] ∧ step s = .next (awaitReady s)) ∨
    (∃ i rest, s.inputs = i :: rest ∧ step s = takeInput i { s with inputs := rest }) := by
  cases h : s.inputs with
  | nil => exact .inl ⟨rfl, by rw [step, nextInput, h]⟩
  | cons i rest => exact .inr ⟨i, rest, rfl, by rw [step, nextInput, h]⟩

/-- What a clock edge can do: reset, wait, accept a command, or hold. -/
theorem clockEdge_cases (p : Pins) (s : State) :
    (p.rst = true ∧ clockEdge p s = .next (takeReset s) ∧ edgeInput p s = [.reset]) ∨
    (p.rst = false ∧ s.busy = true ∧ clockEdge p s = .next (tickBusy s) ∧ edgeInput p s = []) ∨
    (p.rst = false ∧ s.busy = false ∧ p.cmdValid = true ∧
      edgeInput p s = [.command p.cmdWord p.cmdData] ∧
      ∃ t, acceptCommand p.cmdWord p.cmdData s = .next t ∧
        clockEdge p s = .next (startBusy p.cmdWord p.cmdData t)) ∨
    (p.rst = false ∧ s.busy = false ∧ p.cmdValid = false ∧ clockEdge p s = .next s ∧ edgeInput p s = []) := by
  cases hr : p.rst with
  | true => exact .inl ⟨rfl, by simp [clockEdge, hr], by simp [edgeInput, hr]⟩
  | false =>
    right
    cases hb : s.busy with
    | true => exact .inl ⟨rfl, rfl, by simp [clockEdge, hr, hb], by simp [edgeInput, State.cmdReady, hr, hb]⟩
    | false =>
      right
      cases hv : p.cmdValid with
      | true =>
        obtain ⟨t, ht⟩ := acceptCommand_next p.cmdWord p.cmdData s
        exact .inl ⟨rfl, rfl, rfl, by simp [edgeInput, State.cmdReady, hr, hb, hv], t, ht,
          by simp [clockEdge, hr, hb, hv, ht]⟩
      | false =>
        exact .inr ⟨rfl, rfl, rfl, by simp [clockEdge, hr, hb, hv],
          by simp [edgeInput, State.cmdReady, hr, hb, hv]⟩

/-- The transfer placed by `withFetchWord` is the one the next step takes. -/
theorem step_withFetchWord (s : State) (nbits w : Nat) :
    step (s.withFetchWord nbits w) =
      acceptCommand (transferOf nbits w).1 (transferOf nbits w).2 (awaitReady s) := rfl

end Sys2Proof.Machine
end

