-- ==== Sys2Proof/Tests/Slice0.lean ====
section
/-! SUPPORT. Tests: the ill-formed commands, words written bit by bit from the encodings of the spec, the vectors of
`95_test_vectors.md`, and one witness for each statement that has hypotheses. -/

open Sys2Proof Sys2Proof.Machine

namespace Sys2Proof.Tests

-- One proof at a time: the kernel evaluations below are long.
set_option Elab.async false

/-! ### Small states -/

/-- The state an outcome carries; reset where it carries none. -/
def after : Host.Outcome State Fault Refusal → State
  | .next t => t
  | .fault _ => .reset
  | .refused _ => .reset

/-- An open context with k valid buffer bytes, each its own index. -/
def filled (w256 : Bool) (k : BitVec 6) : State :=
  { State.reset with
    phase := .active
    w256 := w256
    fill := k
    buf := Vector.ofFn fun j => if j.val < k.toNat then BitVec.ofNat 8 j.val else 0 }

/-- A consumed context. -/
def consumed (w256 : Bool) : State := { State.reset with phase := .done, w256 := w256, h := 7 }

/-- A core in FAULT with the cause ILLEGAL_OPCODE. -/
def faulted : State := { State.reset with phase := .fault, cause := 1 }

/-- Bytes as the lanes of `cmd_data`, the lanes above them zero. -/
def lanes (bytes : List Byte) : Word512 := ofByteLanes fun j => bytes.getD j 0

/-- The Word512 whose byte j is j (`95_test_vectors.md` section 2.2). -/
def ramp : Word512 := ofByteLanes fun j => BitVec.ofNat 8 j

/-- Pins with a command offered. -/
def offer (word : CmdWord) : Pins where
  rst := false
  cmdValid := true
  cmdWord := word
  cmdData := 0

/-- Pins with nothing offered. -/
def quiet : Pins where
  rst := false
  cmdValid := false
  cmdWord := 0
  cmdData := 0

/-- Pins with reset, and a command at the same edge. -/
def resetPins : Pins where
  rst := true
  cmdValid := true
  cmdWord := 0x00000001
  cmdData := 0

/-! ### WellFormed -/

/-- LEN 64 is legal and LEN 65 is not (`30_encoding.md` R48). -/
theorem test_wellFormed_len :
    (Instr.absorb 64 0).wellFormed = true ∧ (Instr.absorb 65 0).wellFormed = false ∧
      (Instr.absorb 127 0).wellFormed = false := by decide

/-! ### Decoding: each word is written from the bit fields of `30_encoding.md` R47 to R49, reserved bits first -/

theorem test_decode_init512 (data : Word512) :
    decode (0b000000000000000000000000000#27 ++ 0b0#1 ++ 0b0001#4) data = .ok (.init false) := rfl

theorem test_decode_init256 (data : Word512) :
    decode (0b000000000000000000000000000#27 ++ 0b1#1 ++ 0b0001#4) data = .ok (.init true) := rfl

theorem test_decode_absorb (data : Word512) :
    decode (0b000000000000000000000#21 ++ 0b0000000#7 ++ 0b0010#4) data = .ok (.absorb 0 data) ∧
    decode (0b000000000000000000000#21 ++ 0b0101101#7 ++ 0b0010#4) data = .ok (.absorb 45 data) ∧
    decode (0b000000000000000000000#21 ++ 0b1000000#7 ++ 0b0010#4) data = .ok (.absorb 64 data) := ⟨rfl, rfl, rfl⟩

theorem test_decode_finalize (data : Word512) :
    decode (0b0000000000000000000000000000#28 ++ 0b0011#4) data = .ok .finalize := rfl

/-- Illegal words of `30_encoding.md` R52; a reserved bit outranks the length. -/
theorem test_decode_illegal (data : Word512) :
    decode (0b0000000000000000000000000000#28 ++ 0b0000#4) data = .error .illegalOpcode ∧
    decode (0b1111111111111111111111111111#28 ++ 0b1111#4) data = .error .illegalOpcode ∧
    decode (0b100000000000000000000000000#27 ++ 0b0#1 ++ 0b0001#4) data = .error .reservedNonzero ∧
    decode (0b000000000000000000001#21 ++ 0b1111111#7 ++ 0b0010#4) data = .error .reservedNonzero ∧
    decode (0b000000000000000000000#21 ++ 0b1000001#7 ++ 0b0010#4) data = .error .badLength ∧
    decode (0b0000000000000000000000000001#28 ++ 0b0011#4) data = .error .reservedNonzero :=
  ⟨rfl, rfl, rfl, rfl, rfl, rfl⟩

/-- The table's numbering: 32 bits of command word, the data above them, zero where no bits are given. -/
theorem test_table_word :
    decodeTableWord 32 0x00000011 = some (.init true) ∧ decodeTableWord 32 0x000003F2 = some (.absorb 63 0) ∧
    decodeTableWord 544 (0x000003F2 + 5 * 2 ^ 32) = some (.absorb 63 5) ∧
    decodeTableWord 32 0x00000003 = some .finalize ∧ decodeTableWord 32 0x00000412 = none := by decide +kernel

/-! ### The internal functions (`95_test_vectors.md` sections 2.1 and 2.2) -/

/-- An addend limb of all ones with carry-in 1, in the three forms of ADD512. -/
theorem test_adder_carry :
    let x : Word512 := 0x0000000000000005FFFFFFFFFFFFFFFF
    let y : Word512 := 0xFFFFFFFFFFFFFFFF0000000000000001
    let z : Word512 := 0x000000000000000100000000000000050000000000000000
    add512 x y = z ∧ addByLimbs x y = z ∧ addByBytes x y = z := by decide +kernel

theorem test_substitute_ramp :
    substitute ramp =
      0x1fd3d47f98ed0b06a08f6ae3ae0284054f8e018b423c1c8121ef5ce25a6518f9c15fcd14bbf13617ba992e93dbf077e94d04c523dafac4fb16316ecf11ddeefc#512 := by
  decide +kernel

theorem test_permute_ramp :
    permute ramp =
      0x3f372f271f170f073e362e261e160e063d352d251d150d053c342c241c140c043b332b231b130b033a322a221a120a0239312921191109013830282018100800#512 := by
  decide +kernel

theorem test_linearLimb :
    linearLimb 0xFF = 0x7C3B228621F1C57E ∧ linearLimb 0xFFFFFFFFFFFFFFFF = 0xAB8EFF9EC7466498 := by decide +kernel

theorem test_lpsx_ramp :
    lpsx 0 ramp =
      0x7fd076779b5738bba2c702de2fab030283922b173648e8f3dfeaa2ada0656f2a1016db74baaf7027debb8d3252efa37f777df101efe7f20f893f0b27b76b44e9#512 := by
  decide +kernel

/-! ### INIT (`95_test_vectors.md` section 3.1) -/

theorem test_init_from_reset :
    (after (exec (.init true) .reset)).status = 0x00000011 ∧
    (after (exec (.init true) .reset)).h = BitVec.ofNat 512 ((2 ^ 512 - 1) / 255) ∧
    (after (exec (.init false) .reset)).status = 0x00000001 := by decide +kernel

/-- INIT abandons an open message. -/
theorem test_init_abandons : (after (exec (.init true) (filled false 3))).status = 0x00000011 := by decide +kernel

/-! ### ABSORB (`95_test_vectors.md` section 3.2) -/

/-- 63 bytes into an empty buffer are staged in order. -/
theorem test_absorb_append :
    (after (exec (.absorb 63 ramp) (filled false 0))).status = 0x00003F01 ∧
    ∀ j : Fin 63, (after (exec (.absorb 63 ramp) (filled false 0))).buf[j] = BitVec.ofNat 8 j.val := by
  decide +kernel

/-- The row "fill 3, ABSORB 64, seq": the full buffer is compressed and the last 3 bytes begin the next block. -/
theorem test_absorb_flush :
    let s := after (exec (.absorb 3 (lanes [0x61, 0x62, 0x63])) (filled false 0))
    let t := after (exec (.absorb 64 ramp) s)
    t.h =
      0x5724ec50b3c52ca4a07985852d8cba1938d008eec29946d40df811c2669f911d2ee8222a3bae959581776fca48f7d298d9ba4de28b096fba2d1788f8e89a8ac1#512 ∧
    t.sigma =
      0x3c3b3a393837363534333231302f2e2d2c2b2a292827262524232221201f1e1d1c1b1a191817161514131211100f0e0d0c0b0a09080706050403020100636261#512 ∧
    t.n = 0x200 ∧ t.fill = 3 ∧ t.buf[0] = 0x3D ∧ t.buf[2] = 0x3F := by decide +kernel

/-! ### FINALIZE (`95_test_vectors.md` sections 3.3 and 1.2) -/

/-- The empty message in 512-bit mode. -/
theorem test_finalize_empty :
    (after (exec .finalize (filled false 0))).h =
      0x8a1a1c4cbf909f8ecb81cd1b5c713abad26a4cac2a5fda3ce86e352855712f36a7f0be98eb6cf51553b507b73a87e97946aebc29859255049f86aa09a25d948e#512 := by
  decide +kernel

/-- With 63 bytes staged the marker is the last byte, and N is 504 (row "M1, 512-bit"); the digest is valid. -/
theorem test_finalize_full :
    let t := after (exec .finalize (filled true 63))
    t.buf[62] = 62 ∧ t.buf[63] = 0x01 ∧ t.n = 0x1F8 ∧ t.status = 0x0000001A := by decide +kernel

/-! ### Faults and reset (`95_test_vectors.md` section 3; `60_exceptions.md` R106, R108) -/

theorem test_fault_causes :
    (after (acceptCommand 0x0000000F 0 .reset)).status = 0x00010003 ∧
    (after (acceptCommand 0x00000013 0 (consumed false))).status = 0x00020003 ∧
    (after (acceptCommand 0x00000412 0 .reset)).status = 0x00030003 ∧
    (after (acceptCommand 0x00000003 0 .reset)).status = 0x00040003 ∧
    (after (acceptCommand 0x00000002 0 (consumed false))).status = 0x00050003 := by decide +kernel

/-- A faulted core ignores INIT and leaves by reset. -/
theorem test_fault_sticky :
    acceptCommand 0x00000001 0 faulted = .next faulted ∧ takeInput .reset faulted = .next .reset := ⟨rfl, rfl⟩

/-- The word placed by `withFetchWord` is what the next step takes. -/
theorem test_step_fetches :
    (after (step (State.reset.withFetchWord 32 0x00000011))).status = 0x00000011 := by decide +kernel

/-! ### Witnesses: for each statement with hypotheses, inputs that meet them all, at the boundary of each clause -/

/-- Data whose lanes 0 to 2 are zero and whose lane 3 is not. -/
def highLane : Word512 := 0xEE000000

/-- Twice the same message, split in two ways. -/
def oneChunk : List Instr := [.absorb 2 (lanes [1, 2])]
def twoChunks : List Instr := [.absorb 1 (lanes [1]), .absorb 0 0, .absorb 1 (lanes [2])]

theorem witness_DecodeInvertsEncode :
    (Instr.init true).wellFormed = true ∧ (Instr.absorb 64 ramp).wellFormed = true ∧
      Instr.finalize.wellFormed = true := by decide

theorem witness_EncodeInvertsDecode :
    decode 0x00000402 ramp = .ok (.absorb 64 ramp) ∧ opField 0x00000402 = 2 := ⟨rfl, rfl⟩

theorem witness_OpcodeMapMatchAndMask :
    (0x00000011#32 &&& 0xFFFFFFEF = 0x00000001) ∧ (0x00000402#32 &&& 0xFFFFF80F = 0x00000002) ∧
    (BitVec.extractLsb' 4 7 0x00000402#32).toNat ≤ 64 ∧ (BitVec.extractLsb' 0 4 0x00000000#32) = 0 ∧
    4 ≤ (BitVec.extractLsb' 0 4 0x00000004#32).toNat ∧ 4 ≤ (BitVec.extractLsb' 0 4 0x0000000F#32).toNat := by decide

theorem witness_OperandsAreTheFields (data : Word512) :
    decode 0x00000011 data = .ok (.init true) ∧ decode 0x000003F2 data = .ok (.absorb 63 data) ∧
      62 < (63#7).toNat := ⟨rfl, rfl, by decide⟩

theorem witness_IllegalWordsRaiseTheirMisuse :
    State.reset.phase ≠ .fault ∧
    (BitVec.extractLsb' 0 4 0x00000000#32).toNat = 0 ∧ 4 ≤ (BitVec.extractLsb' 0 4 0x00000004#32).toNat ∧
    ((BitVec.extractLsb' 0 4 0x00000021#32).toNat = 1 ∧ BitVec.extractLsb' 5 27 0x00000021#32 ≠ 0) ∧
    ((BitVec.extractLsb' 0 4 0x00000802#32).toNat = 2 ∧ BitVec.extractLsb' 11 21 0x00000802#32 ≠ 0) ∧
    ((BitVec.extractLsb' 0 4 0x80000003#32).toNat = 3 ∧ BitVec.extractLsb' 4 28 0x80000003#32 ≠ 0) ∧
    ((BitVec.extractLsb' 0 4 0x00000412#32).toNat = 2 ∧ BitVec.extractLsb' 11 21 0x00000412#32 = 0 ∧
      (BitVec.extractLsb' 4 7 0x00000412#32).toNat = 65) ∧
    ((BitVec.extractLsb' 0 4 0x000007F2#32).toNat = 2 ∧ BitVec.extractLsb' 11 21 0x000007F2#32 = 0 ∧
      (BitVec.extractLsb' 4 7 0x000007F2#32).toNat = 127) := by decide

theorem witness_AbsorbnCarriesItsBytes :
    (absorbN (List.replicate 65 7)).length = 2 ∧ 0 < (List.replicate 65 (7 : Byte)).length / 64 ∧
      absorbN [] = [] ∧ absorbOf [7] ∈ absorbN [7] := by
  refine ⟨rfl, by decide, rfl, ?_⟩
  simp [absorbN]

/-- An addend limb of all ones with carry-in 1, and an addend limb of 0 with carry-in 0, at the first and the last limb. -/
theorem witness_CarryNeedsTheExactSum :
    let x : Word512 := 0x0000000000000005FFFFFFFFFFFFFFFF
    let y : Word512 := 0xFFFFFFFFFFFFFFFF0000000000000001
    limb y 1 = BitVec.allOnes 64 ∧ limbCarry x y 1 = 1 ∧ limb (0 : Word512) 0 = 0 ∧ limbCarry x 0 0 = 0 ∧
      limb (0 : Word512) 7 = 0 ∧ limbCarry x 0 7 = 0 := by decide +kernel

theorem witness_TablesHaveTheirStructure : sbox 0x00 = sbox 0x00 ∧ 63 < 64 ∧ 63 % 8 ≠ 0 ∧ 1 % 8 ≠ 0 := by decide

/-- The keys of R70, by the rule's own recursion. -/
def keys (h n : Word512) : Nat → Word512
  | 0 => 0
  | 1 => lpsx h n
  | i + 2 => lpsx (keys h n (i + 1)) (roundConstant i)

/-- The states of R71, by the rule's own recursion. -/
def states (h n m : Word512) : Nat → Word512
  | 0 => 0
  | 1 => lpsx (keys h n 1) m
  | i + 2 => lpsx (keys h n (i + 2)) (states h n m (i + 1))

theorem witness_CompressionFollowsTheKeySchedule (h n m : Word512) :
    keys h n 1 = lpsx h n ∧ (∀ i, i ≤ 10 → keys h n (i + 2) = lpsx (keys h n (i + 1)) (roundConstant i)) ∧
    keys h n 13 = lpsx (keys h n 12) (roundConstant 11) ∧ states h n m 1 = lpsx (keys h n 1) m ∧
    ∀ i, i ≤ 10 → states h n m (i + 2) = lpsx (keys h n (i + 2)) (states h n m (i + 1)) :=
  ⟨keys.eq_2 h n, fun i _ => keys.eq_3 h n i, keys.eq_3 h n 11, states.eq_2 h n m, fun i _ => states.eq_3 h n m i⟩

theorem witness_WorkPerCommandIsFixed :
    0 ≤ 64 ∧ 64 ≤ 64 ∧ 64 ≤ (filled false 63).fill.toNat + 1 ∧ ¬64 ≤ (filled false 63).fill.toNat + 0 := by decide

theorem witness_InitOpensFreshContext :
    State.reset.phase ≠ .fault ∧ State.reset.cause = 0 ∧ State.reset.busy = false ∧ faulted.phase = .fault ∧
    (0x00000001#32 &&& 0xFFFFFFEF = 0x00000001) ∧ (0x00000011#32 &&& 0xFFFFFFEF = 0x00000001) ∧
    BitVec.extractLsb' 0 4 0x80000001#32 = 1 ∧ BitVec.extractLsb' 5 27 0x80000001#32 ≠ 0 := by decide

theorem witness_InitAbandonsTheOldContext :
    (filled true 5).phase = .active ∧ (consumed false).phase = .done ∧ (filled true 5).cause = (consumed false).cause ∧
    (filled true 5).busyLeft = (consumed false).busyLeft ∧ (filled true 5).inputs = (consumed false).inputs ∧
    (filled true 5).draws = (consumed false).draws := ⟨rfl, rfl, rfl, rfl, rfl, rfl⟩

/-- The three paths at their boundaries: fill 0 with 64 bytes; 0 + 0, 0 + 63, 63 + 0; 1 + 63, 63 + 1 and 63 + 64. -/
theorem witness_AbsorbFeedsItsBytes :
    (∀ f : BitVec 6, (filled false f).phase = .active ∧ (filled false f).fill = f) ∧ (64#7).toNat ≤ 64 ∧
    ((0#6).toNat = 0 ∧ (64#7).toNat = 64) ∧ (0#6).toNat + (0#7).toNat < 64 ∧ (0#6).toNat + (63#7).toNat < 64 ∧
    (63#6).toNat + (0#7).toNat < 64 ∧ (0 < (1#6).toNat ∧ 64 ≤ (1#6).toNat + (63#7).toNat) ∧
    (0 < (63#6).toNat ∧ 64 ≤ (63#6).toNat + (1#7).toNat) ∧ (0 < (63#6).toNat ∧ 64 ≤ (63#6).toNat + (64#7).toNat) :=
  ⟨fun _ => ⟨rfl, rfl⟩, by decide⟩

theorem witness_AbsorbFeedsItsBytes_checks :
    faulted.phase = .fault ∧ State.reset.phase ≠ .fault ∧ State.reset.phase = .idle ∧ (consumed true).phase = .done ∧
    65 ≤ (65#7).toNat ∧ 65 ≤ (127#7).toNat ∧ (0x00000402#32 &&& 0xFFFFF80F = 0x00000002) ∧
    (BitVec.extractLsb' 4 7 0x00000402#32).toNat ≤ 64 ∧ BitVec.extractLsb' 0 4 0x80000002#32 = 2 ∧
    BitVec.extractLsb' 11 21 0x80000002#32 ≠ 0 := by decide

theorem witness_AbsorbCornerCases :
    (filled false 1).phase = .active ∧ (63#7).toNat < 64 ∧ (filled false 1).fill.toNat + (63#7).toNat = 64 ∧
    (1#7).toNat < 64 ∧ (filled false 63).fill.toNat + (1#7).toNat = 64 ∧ (64#7).toNat ≤ 64 ∧
    (filled false 1).fill.toNat + (62#7).toNat < 64 := by decide

theorem witness_LanesBeyondLenAreIgnored :
    (∀ j, j < (3#7).toNat → byte highLane j = byte 0 j) ∧ highLane ≠ 0 ∧
    (∀ j, j < (0#7).toNat → byte ramp j = byte 0 j) ∧ BitVec.extractLsb' 0 4 0x00000003#32 ≠ 2 := by decide +kernel

theorem witness_DirectAndBufferedPathsAgree : (filled true 0).phase = .active ∧ (filled true 0).fill = 0 := by decide

theorem witness_FinalizeFoldsLengthAndChecksum :
    (filled true 63).phase = .active ∧ (filled true 63).cause = 0 ∧ (filled true 63).busy = false ∧
    (filled false 0).phase = .active ∧ faulted.phase = .fault ∧ State.reset.phase = .idle ∧
    (consumed true).phase = .done ∧ State.reset.phase ≠ .fault ∧ BitVec.extractLsb' 0 4 0x00000013#32 = 3 ∧
    BitVec.extractLsb' 4 28 0x00000013#32 ≠ 0 := by decide

theorem witness_EmptyMessageHasItsFixedDigest :
    State.reset.phase ≠ .fault ∧ ∀ i ∈ [Instr.absorb 0 ramp, .absorb 0 0], ∃ data, i = .absorb 0 data := by
  refine ⟨by decide, fun i hi => ?_⟩
  simp only [List.mem_cons, List.not_mem_nil, or_false] at hi
  obtain rfl | rfl := hi
  · exact ⟨_, rfl⟩
  · exact ⟨_, rfl⟩

theorem witness_DigestPortShowsTheDigest :
    ((consumed false).dvalid = true ∧ (consumed false).w256 = false) ∧
    ((consumed true).dvalid = true ∧ (consumed true).w256 = true) ∧ (filled true 0).dvalid = false := by decide

theorem witness_FinalizeShowsTheUpperBytes :
    (filled true 63).phase = .active ∧ (filled true 63).busyLeft = 0 ∧ (finalizeContext (filled true 63)).inputs = [] ∧
    (filled false 0).phase = .active ∧ (filled false 0).busyLeft = 0 := ⟨rfl, rfl, rfl, rfl, rfl⟩

theorem witness_WidthsDifferOnlyAtTheEnds :
    (∀ w, Instr.finalize ≠ .init w) ∧ exec .finalize (filled true 1) = .next (finalizeContext (filled true 1)) ∧
    (∀ w, Instr.absorb 1 0 ≠ .init w) ∧
    exec (.absorb 1 0) (filled true 63) = .next (absorbBytes 1 0 (filled true 63)) :=
  ⟨by decide, rfl, by decide, rfl⟩

/-- Each row of the check, in a phase that reaches it, and each command that passes. -/
theorem witness_CommandStepChecksThenRuns :
    faulted.phase = .fault ∧ (∀ k, (filled false k).phase ≠ .fault) ∧ State.reset.phase ≠ .fault ∧
    (consumed false).phase ≠ .fault ∧
    checkCommand 0x00000004 .idle = some .illegalOpcode ∧ checkCommand 0x00000021 .active = some .reservedNonzero ∧
    checkCommand 0x00000FF2 .done = some .reservedNonzero ∧ checkCommand 0x00000013 .done = some .reservedNonzero ∧
    checkCommand 0x00000412 .idle = some .badLength ∧ checkCommand 0x00000003 .idle = some .noContext ∧
    checkCommand 0x00000402 .done = some .consumed ∧
    (checkCommand 0x00000011 .done = none ∧ BitVec.extractLsb' 0 4 0x00000011#32 = 1) ∧
    (checkCommand 0x00000402 .active = none ∧ BitVec.extractLsb' 0 4 0x00000402#32 = 2) ∧
    (checkCommand 0x00000003 .active = none ∧ BitVec.extractLsb' 0 4 0x00000003#32 = 3) := by
  refine ⟨rfl, fun k => ?_, ?_⟩
  · exact fun h => nomatch h
  · decide

theorem witness_PhasesMoveAsTheTableSays (data : Word512) :
    faulted.phase = .fault ∧ State.reset.phase = .idle ∧ (filled true 9).phase = .active ∧ (consumed true).phase = .done ∧
    decode 0x00000000 data = .error .illegalOpcode ∧ decode 0x00000001 data = .ok (.init false) ∧
    decode 0x00000402 data = .ok (.absorb 64 data) ∧ decode 0x00000003 data = .ok .finalize :=
  ⟨rfl, rfl, rfl, rfl, rfl, rfl, rfl, rfl⟩

theorem witness_FaultStepIsPrecise :
    (filled true 5).phase ≠ .fault ∧
    acceptCommand 0x0000000F 0 (filled true 5) = .next (raiseMisuse .illegalOpcode (filled true 5)) ∧
    (raiseMisuse .illegalOpcode (filled true 5)).phase = .fault ∧ (filled true 5).busy = false :=
  ⟨by decide, rfl, rfl, rfl⟩

/-- The second state is that of the worked example of `60_exceptions.md` R111. -/
theorem witness_FaultIsLeftByResetAlone :
    faulted.phase = .fault ∧ (raiseMisuse .consumed (consumed false)).phase = .fault ∧
    (raiseMisuse .consumed (consumed false)).cause = 5 ∧ (raiseMisuse .consumed (consumed false)).fill = 0 ∧
    (raiseMisuse .consumed (consumed false)).w256 = false ∧ (raiseMisuse .consumed (consumed false)).busy = false :=
  ⟨rfl, rfl, rfl, rfl, rfl, rfl⟩

theorem witness_ConsumedContextRaisesConsumed :
    (consumed true).phase = .done ∧ Instr.finalize.wellFormed = true ∧ (∀ w, Instr.finalize ≠ .init w) ∧
    (Instr.absorb 64 0).wellFormed = true ∧ ∀ w, Instr.absorb 64 0 ≠ .init w := by decide

theorem witness_OnlyInitOpensAndOnlyFinalizeCloses :
    (exec .finalize (filled true 1) = .next (finalizeContext (filled true 1)) ∧
      (finalizeContext (filled true 1)).phase = .done ∧ (filled true 1).phase ≠ .done) ∧
    exec (.init true) .reset = .next (openContext true .reset) ∧ (openContext true .reset).phase = .active ∧
      State.reset.phase ≠ .active ∧ (openContext true .reset).w256 ≠ State.reset.w256 :=
  ⟨⟨rfl, rfl, by decide⟩, rfl, rfl, by decide, by decide⟩

/-- The frame's cases: an append, a flush, an illegal length, and a FINALIZE in and outside ACTIVE. -/
theorem witness_CommandsLeaveTheRestUnchanged :
    exec (.init true) .reset = .next (openContext true .reset) ∧
    (exec (.absorb 3 ramp) (filled true 5) = .next (absorbBytes 3 ramp (filled true 5)) ∧
      (filled true 5).phase = .active ∧ (3#7).toNat ≤ 64 ∧ (filled true 5).fill.toNat + (3#7).toNat < 64 ∧
      ¬((filled true 5).fill.toNat ≤ 8 ∧ 8 < (filled true 5).fill.toNat + (3#7).toNat) ∧
      ¬(8 + 64 < (filled true 5).fill.toNat + (3#7).toNat)) ∧
    (exec (.absorb 60 ramp) (filled true 5) = .next (absorbBytes 60 ramp (filled true 5)) ∧
      ¬((filled true 5).fill.toNat ≤ 4 ∧ 4 < (filled true 5).fill.toNat + (60#7).toNat) ∧
      ¬(4 + 64 < (filled true 5).fill.toNat + (60#7).toNat)) ∧
    (exec (.absorb 65 ramp) (filled true 5) = .next (raiseMisuse .badLength (filled true 5)) ∧ 64 < (65#7).toNat) ∧
    (exec .finalize (filled true 5) = .next (finalizeContext (filled true 5)) ∧ 4 < (filled true 5).fill.toNat) ∧
    exec .finalize .reset = .next (raiseMisuse .noContext .reset) ∧ State.reset.phase ≠ .active := by
  refine ⟨rfl, ⟨rfl, rfl, ?_⟩, ⟨rfl, ?_⟩, ⟨rfl, ?_⟩, ⟨rfl, ?_⟩, rfl, ?_⟩ <;> decide

theorem witness_CommandsReadNoClock : exec (.init true) .reset = .next (openContext true .reset) := rfl

theorem witness_StatusHasItsLayout :
    { State.reset with busyLeft := 1 }.busy = true ∧ State.reset.busy = false := by decide

theorem witness_ResetAbortsAndRestores :
    { faulted with inputs := [.reset, .command 3 0] }.inputs = .reset :: [.command 3 0] ∧ resetPins.rst = true ∧
    (offer 0x00000011).rst = false ∧
    clockEdge (offer 0x00000011) .reset = .next (startBusy 0x00000011 0 (openContext true .reset)) :=
  ⟨rfl, rfl, rfl, rfl⟩

theorem witness_StepRunsTheDecodedCommand :
    { State.reset with inputs := [.command 0x00000011 0, .reset] }.inputs = .command 0x00000011 0 :: [.reset] ∧
    decode 0x00000011 0 = .ok (.init true) := ⟨rfl, rfl⟩

theorem witness_StepRaisesTheDecodersMisuse :
    { State.reset with inputs := [.command 0x0000000F 0] }.inputs = .command 0x0000000F 0 :: [] ∧
    decode 0x0000000F 0 = .error .illegalOpcode ∧ State.reset.phase ≠ .fault ∧ faulted.phase = .fault :=
  ⟨rfl, rfl, by decide, rfl⟩

theorem witness_EveryStepEndsReady : State.reset.inputs = [] ∧ State.reset.busy = false := ⟨rfl, rfl⟩

theorem witness_StepsTakeInputsInOrder :
    { State.reset with inputs := [.command 1 0, .command 3 0, .reset] }.inputs =
      [.command 1 0, .command 3 0] ++ [.reset] := rfl

/-- A state with the invariant in each phase, and the step it takes. -/
theorem witness_EveryStepKeepsTheInvariant :
    State.reset.Inv ∧ (filled true 5).Inv ∧ (consumed true).Inv ∧ faulted.Inv ∧
    step { State.reset with inputs := [.command 0x00000011 0] } = .next (openContext true .reset) := by
  refine ⟨by decide +kernel, by decide +kernel, by decide +kernel, by decide +kernel, rfl⟩

/-- Two contexts with the same three valid bytes and different tails. -/
theorem witness_BufferTailIsUnobservable :
    let s := filled true 3
    let t := { s with buf := Vector.ofFn fun j => if j.val < 3 then BitVec.ofNat 8 j.val else 0xEE }
    SameButTail s t ∧ s ≠ t := by
  refine ⟨⟨rfl, by decide +kernel⟩, by decide +kernel⟩

theorem witness_ChunkingDoesNotMatter :
    (filled true 63).phase = .active ∧ (∀ i ∈ oneChunk, isLegalAbsorb i = true) ∧
    (∀ i ∈ twoChunks, isLegalAbsorb i = true) ∧ message oneChunk = message twoChunks := by decide +kernel

/-- For the statements about a whole message: a legal sequence of ABSORBs, none of them or some. -/
theorem witness_message :
    State.reset.phase ≠ .fault ∧ State.reset.busy = false ∧ (∀ i ∈ ([] : List Instr), isLegalAbsorb i = true) ∧
    ∀ i ∈ twoChunks, isLegalAbsorb i = true := by decide

theorem witness_NoCommandIsAcceptedWhileBusy :
    (offer 1).rst = false ∧ (offer 1).cmdValid = true ∧ quiet.rst = false ∧ quiet.cmdValid = false ∧
    { State.reset with busyLeft := 1 }.busy = true ∧ State.reset.busy = false := by decide

theorem witness_BusyFallsAfterItsCycles :
    (∀ p ∈ [offer 1, quiet], p.rst = false) ∧
    [offer 1, quiet].length = { State.reset with busyLeft := 2 }.busyLeft := by decide

theorem witness_ClockedRunRefinesTheCommandStream :
    clockRun 0 [quiet, offer 0x00000011] .reset = .next (startBusy 0x00000011 0 (openContext true .reset)) := rfl

end Sys2Proof.Tests
end

section
/-! PROOFS. The registers and ports of `10_state.md`: the digest port (O28), the layout of STATUS (O39) and the acceptance of
commands (O53). -/

namespace Sys2Proof.Machine

/-! ### BUSY and DVALID -/

/-- DVALID is PHASE = DONE and BUSY = 0 (`10_state.md` R17). -/
theorem dvalid_iff (s : State) : s.dvalid = true ↔ s.phase = .done ∧ s.busy = false := by
  simp [State.dvalid]

theorem dvalid_of_busy {s : State} (h : s.busy = true) : s.dvalid = false := by
  simp [State.dvalid, h]

theorem busy_iff (s : State) : s.busy = true ↔ s.busyLeft ≠ 0 := by
  simp [State.busy]

/-! ### The digest port -/

theorem digest_of_dvalid_of_w512 {s : State} (hv : s.dvalid = true) (hw : s.w256 = false) : s.digest = s.h := by
  simp [State.digest, hv, hw]

theorem digest_of_dvalid_of_w256 {s : State} (hv : s.dvalid = true) (hw : s.w256 = true) :
    s.digest = (upperHalf s.h).setWidth 512 := by
  simp [State.digest, hv, hw]

theorem digest_of_not_dvalid {s : State} (hv : s.dvalid = false) : s.digest = 0 := by
  simp [State.digest, hv]

theorem digestBytes_of_dvalid {s : State} (hv : s.dvalid = true) :
    s.digestBytes = (List.range s.digestLength).map (byte s.digest) := by
  simp [State.digestBytes, hv]

/-- The upper half, zero-extended, is the quotient by 2^256 (`40_word_adder.md` R57). -/
theorem toNat_setWidth_upperHalf (w : Word512) : ((upperHalf w).setWidth 512).toNat = w.toNat / 2 ^ 256 := by
  have hq : w.toNat / 2 ^ 256 < 2 ^ 256 := by
    have := w.isLt
    omega
  rw [BitVec.toNat_setWidth_of_le (by decide), upperHalf, BitVec.extractLsb'_toNat, Nat.shiftRight_eq_div_pow,
    Nat.mod_eq_of_lt hq]

/-- Settles O28: the port and its bytes in each width with DVALID = 1, and the port with DVALID = 0. -/
theorem digestPortShowsTheDigest : Obligations.DigestPortShowsTheDigest := by
  intro s
  refine ⟨fun hv hw => ⟨digest_of_dvalid_of_w512 hv hw, ?_⟩, fun hv hw => ⟨?_, ?_⟩, digest_of_not_dvalid⟩
  · rw [digestBytes_of_dvalid hv, State.digestLength, hw]
    rfl
  · rw [digest_of_dvalid_of_w256 hv hw, toNat_setWidth_upperHalf]
  · rw [digestBytes_of_dvalid hv, State.digestLength, hw]
    rfl

/-! ### The layout of STATUS

A field of STATUS is a value placed at its offset, so a range of bits of STATUS meets its own field in full and every other
field not at all. -/

/-- The bits a placed value occupies read as the value. -/
theorem extractLsb'_placed {w : Nat} (x : BitVec w) (k : Nat) (h : k + w ≤ 32) :
    (x.setWidth 32 <<< k).extractLsb' k w = x := by
  apply BitVec.eq_of_getLsbD_eq
  intro i hi
  simp [hi, show k + i < 32 by omega]

/-- Bits below or above those a placed value occupies read 0. -/
theorem extractLsb'_placed_disjoint {w : Nat} (x : BitVec w) (k lo len : Nat) (h : lo + len ≤ k ∨ k + w ≤ lo) :
    (x.setWidth 32 <<< k).extractLsb' lo len = 0 := by
  apply BitVec.eq_of_getLsbD_eq
  intro i hi
  obtain h | h := h
  · simp [show lo + i < k by omega]
  · simp [BitVec.getLsbD_of_ge x (lo + i - k) (by omega)]

section
variable (cause : BitVec 4) (fill : BitVec 6) (w256 dvalid busy : Bool) (phase : BitVec 2)

/-- A range of bits of STATUS, as that range of each placed field. -/
theorem extractLsb'_statusWord (lo len : Nat) :
    (statusWord cause fill w256 dvalid busy phase).extractLsb' lo len =
      (cause.setWidth 32 <<< 16).extractLsb' lo len ||| (fill.setWidth 32 <<< 8).extractLsb' lo len |||
        ((BitVec.ofBool w256).setWidth 32 <<< 4).extractLsb' lo len |||
        ((BitVec.ofBool dvalid).setWidth 32 <<< 3).extractLsb' lo len |||
        ((BitVec.ofBool busy).setWidth 32 <<< 2).extractLsb' lo len ||| (phase.setWidth 32 <<< 0).extractLsb' lo len := by
  simp only [statusWord, BitVec.extractLsb'_or, BitVec.shiftLeft_zero]

@[simp] theorem statusWord_phase : (statusWord cause fill w256 dvalid busy phase).extractLsb' 0 2 = phase := by
  simp [extractLsb'_statusWord, extractLsb'_placed, extractLsb'_placed_disjoint, -BitVec.shiftLeft_zero]

@[simp] theorem statusWord_fill : (statusWord cause fill w256 dvalid busy phase).extractLsb' 8 6 = fill := by
  simp [extractLsb'_statusWord, extractLsb'_placed, extractLsb'_placed_disjoint, -BitVec.shiftLeft_zero]

@[simp] theorem statusWord_cause : (statusWord cause fill w256 dvalid busy phase).extractLsb' 16 4 = cause := by
  simp [extractLsb'_statusWord, extractLsb'_placed, extractLsb'_placed_disjoint, -BitVec.shiftLeft_zero]

@[simp] theorem statusWord_busy : (statusWord cause fill w256 dvalid busy phase).getLsbD 2 = busy := by
  simp [statusWord, BitVec.getLsbD_of_ge]

@[simp] theorem statusWord_dvalid : (statusWord cause fill w256 dvalid busy phase).getLsbD 3 = dvalid := by
  simp [statusWord, BitVec.getLsbD_of_ge]

@[simp] theorem statusWord_w256 : (statusWord cause fill w256 dvalid busy phase).getLsbD 4 = w256 := by
  simp [statusWord, BitVec.getLsbD_of_ge]

/-- The reserved bits are STATUS[7:5], STATUS[15:14] and STATUS[31:20] (`10_state.md` R17). -/
theorem statusWord_reserved :
    (statusWord cause fill w256 dvalid busy phase).extractLsb' 5 3 = 0 ∧
    (statusWord cause fill w256 dvalid busy phase).extractLsb' 14 2 = 0 ∧
    (statusWord cause fill w256 dvalid busy phase).extractLsb' 20 12 = 0 := by
  simp [extractLsb'_statusWord, extractLsb'_placed_disjoint, -BitVec.shiftLeft_zero]

end

/-- With BUSY = 0 every field of STATUS is the register it is named for. -/
theorem status_of_not_busy {s : State} (h : s.busy = false) :
    s.status = statusWord s.cause s.fill s.w256 s.dvalid s.busy (phaseCode s.phase) := by
  simp [State.status, h]

/-- STATUS has its layout also while BUSY = 1, with the fields but BUSY and DVALID then free (`10_state.md` R18). -/
theorem status_eq_statusWord (s : State) :
    ∃ cause fill w256 phase, s.status = statusWord cause fill w256 s.dvalid s.busy phase := by
  cases hb : s.busy with
  | true =>
    rw [dvalid_of_busy hb, State.status, if_pos hb]
    exact ⟨_, _, _, _, rfl⟩
  | false => exact ⟨_, _, _, _, hb ▸ status_of_not_busy hb⟩

/-- Settles O39: BUSY and DVALID from the layout STATUS always has, the other fields from its value with BUSY = 0. -/
theorem statusHasItsLayout : Obligations.StatusHasItsLayout := by
  intro s
  obtain ⟨_, _, _, _, hs⟩ := status_eq_statusWord s
  refine ⟨by rw [hs, statusWord_busy], by rw [hs, statusWord_dvalid], dvalid_iff s, fun hb => ?_⟩
  rw [status_of_not_busy hb]
  refine ⟨?_, statusWord_w256 .., statusWord_fill .., statusWord_cause .., statusWord_reserved ..⟩
  rw [statusWord_phase]
  cases s.phase <;> rfl

/-! ### Acceptance of commands -/

/-- The rise of BUSY and an edge of the wait write no register of the spec but BUSY. -/
@[simp] theorem settled_startBusy (word : CmdWord) (data : Word512) (s : State) :
    (startBusy word data s).settled = s.settled := rfl

@[simp] theorem settled_tickBusy (s : State) : (tickBusy s).settled = s.settled := rfl

/-- A latency is at least one cycle, so an accepted command always raises BUSY (`70_reset_and_hazards.md` R132). -/
@[simp] theorem busy_startBusy (word : CmdWord) (data : Word512) (s : State) : (startBusy word data s).busy = true := by
  simp [busy_iff, Config.latency]

theorem busyLeft_tickBusy_succ {s : State} (h : s.busy = true) : (tickBusy s).busyLeft + 1 = s.busyLeft :=
  Nat.succ_pred_eq_of_ne_zero ((busy_iff s).1 h)

/-- While BUSY = 1 an edge without reset waits and takes nothing. -/
theorem clockEdge_of_busy {p : Pins} {s : State} (hr : p.rst = false) (hb : s.busy = true) :
    clockEdge p s = .next (tickBusy s) ∧ edgeInput p s = [] := by
  simpa [hr, hb] using clockEdge_cases p s

/-- With BUSY = 0 an edge without reset accepts an offered command, and BUSY rises. -/
theorem clockEdge_of_offer {p : Pins} {s : State} (hr : p.rst = false) (hb : s.busy = false) (hv : p.cmdValid = true) :
    edgeInput p s = [.command p.cmdWord p.cmdData] ∧
      ∃ t, acceptCommand p.cmdWord p.cmdData s = .next t ∧
        clockEdge p s = .next (startBusy p.cmdWord p.cmdData t) := by
  simpa [hr, hb, hv] using clockEdge_cases p s

/-- With BUSY = 0 and no offer an edge without reset holds the state. -/
theorem clockEdge_of_no_offer {p : Pins} {s : State} (hr : p.rst = false) (hb : s.busy = false)
    (hv : p.cmdValid = false) : clockEdge p s = .next s ∧ edgeInput p s = [] := by
  simpa [hr, hb, hv] using clockEdge_cases p s

/-- Settles O53: the edge that waits, the edge that accepts, and the edge that holds. -/
theorem noCommandIsAcceptedWhileBusy : Obligations.NoCommandIsAcceptedWhileBusy := by
  intro p s hr
  refine ⟨fun hb => ?_, fun hb hv => ?_, fun hb hv => (clockEdge_of_no_offer hr hb hv).1⟩
  · obtain ⟨hedge, hnone⟩ := clockEdge_of_busy hr hb
    refine ⟨by simp [State.cmdReady, hb], hnone, fun q hq => ?_, tickBusy s, hedge, settled_tickBusy s,
      busyLeft_tickBusy_succ hb⟩
    rw [hedge, (clockEdge_of_busy hq hb).1]
  · obtain ⟨_, t, haccept, hedge⟩ := clockEdge_of_offer hr hb hv
    exact ⟨by simp [State.cmdReady, hb], t, _, haccept, hedge, settled_startBusy .., busy_startBusy ..⟩

end Sys2Proof.Machine
end

section
/-! PROOFS. The rules of `20_memory.md`: the order of effects at the clock (O55), the views of a Word512 (O9) and the lanes a command
reads (O24). -/

namespace Sys2Proof.Machine

/-! ### The model's own fields

No operation of the commands reads `busyLeft`, `inputs` or `draws`, so each commutes with writing them. -/

/-- A state with the model's own fields given and every other register kept (log entries 1, 3 and 4). -/
def State.withOwnFields (b : Nat) (l : List HostInput) (d : Nat) (s : State) : State :=
  { s with busyLeft := b, inputs := l, draws := d }

section
variable (b : Nat) (l : List HostInput) (d : Nat)

@[simp] theorem State.withOwnFields_phase (s : State) : (s.withOwnFields b l d).phase = s.phase := rfl

theorem unlessFault_withOwnFields (s t : State) :
    unlessFault (s.withOwnFields b l d) (t.withOwnFields b l d) = (unlessFault s t).withOwnFields b l d :=
  (apply_ite (State.withOwnFields b l d) (s.phase = .fault) s t).symm

theorem whenActive_withOwnFields (s t : State) :
    whenActive (s.withOwnFields b l d) (t.withOwnFields b l d) = (whenActive s t).withOwnFields b l d := by
  rw [whenActive, whenActive, State.withOwnFields_phase]
  cases s.phase <;> rfl

theorem absorbBuffered_withOwnFields (len : Nat) (data : Word512) (s : State) :
    absorbBuffered len data (s.withOwnFields b l d) = (absorbBuffered len data s).withOwnFields b l d := by
  rw [absorbBuffered, absorbBuffered]
  dsimp only
  rw [apply_ite (State.withOwnFields b l d)]
  rfl

theorem absorbBytes_withOwnFields (len : Nat) (data : Word512) (s : State) :
    absorbBytes len data (s.withOwnFields b l d) = (absorbBytes len data s).withOwnFields b l d := by
  rw [absorbBytes, absorbBytes, absorbBuffered_withOwnFields, apply_ite (State.withOwnFields b l d)]
  rfl

theorem execAbsorb_withOwnFields (len : BitVec 7) (data : Word512) {s t : State} (h : execAbsorb len data s = .next t) :
    execAbsorb len data (s.withOwnFields b l d) = .next (t.withOwnFields b l d) := by
  cases h
  rw [execAbsorb, ← unlessFault_withOwnFields, apply_ite (State.withOwnFields b l d), ← whenActive_withOwnFields,
    absorbBytes_withOwnFields]
  rfl

/-- A command's effect on the registers does not depend on the model's own fields, and it leaves them. -/
theorem exec_withOwnFields {i : Instr} {s t : State} (h : exec i s = .next t) :
    exec i (s.withOwnFields b l d) = .next (t.withOwnFields b l d) := by
  cases i with
  | init w =>
    cases h
    exact congrArg Host.Outcome.next (unlessFault_withOwnFields b l d s (openContext w s))
  | absorb len data => exact execAbsorb_withOwnFields b l d len data h
  | finalize =>
    cases h
    rw [← unlessFault_withOwnFields, ← whenActive_withOwnFields]
    rfl

theorem acceptCommand_withOwnFields {word : CmdWord} {data : Word512} {s t : State}
    (h : acceptCommand word data s = .next t) :
    acceptCommand word data (s.withOwnFields b l d) = .next (t.withOwnFields b l d) := by
  cases hd : decode word data with
  | ok i =>
    rw [acceptCommand, hd] at h ⊢
    exact exec_withOwnFields b l d h
  | error c =>
    rw [acceptCommand, hd] at h ⊢
    cases h
    exact congrArg Host.Outcome.next (unlessFault_withOwnFields b l d s (raiseMisuse c s))

end

/-! ### Inputs taken from a settled state -/

/-- Settling is one way to write the model's own fields, so a transfer accepted in the settled state settles the result. -/
theorem acceptCommand_settled {word : CmdWord} {data : Word512} {s t : State} (h : acceptCommand word data s = .next t) :
    acceptCommand word data s.settled = .next t.settled :=
  acceptCommand_withOwnFields 0 [] 0 h

/-- With BUSY put aside a command input is one accepted transfer. -/
theorem takeInput_command_settled {word : CmdWord} {data : Word512} {s t : State}
    (h : acceptCommand word data s = .next t) : takeInput (.command word data) s.settled = .next t.settled :=
  acceptCommand_settled (s := s) h

theorem takeInput_settled {i : HostInput} {s t : State} (h : takeInput i s = .next t) :
    takeInput i s.settled = .next t.settled := by
  cases i with
  | reset =>
    cases h
    rfl
  | command word data => exact takeInput_command_settled (s := awaitReady s) h

/-- Taking a first input that answers a next state, then the rest. -/
theorem takeInputs_cons {i : HostInput} {s t : State} (rest : List HostInput) (h : takeInput i s = .next t) :
    takeInputs (i :: rest) s = takeInputs rest t := by
  rw [takeInputs, h]

theorem takeInputs_append {k l : List HostInput} {s t : State} (h : takeInputs k s = .next t) :
    takeInputs (k ++ l) s = takeInputs l t := by
  induction k generalizing s with
  | nil =>
    cases h
    rfl
  | cons i rest ih =>
    obtain ⟨v, hv⟩ := takeInput_next i s
    rw [takeInputs_cons _ hv] at h
    rw [List.cons_append, takeInputs_cons _ hv, ih h]

/-- Any inputs answer a next state. -/
theorem takeInputs_next (l : List HostInput) (s : State) : ∃ t, takeInputs l s = .next t := by
  induction l generalizing s with
  | nil => exact ⟨s, rfl⟩
  | cons i rest ih =>
    obtain ⟨v, hv⟩ := takeInput_next i s
    rw [takeInputs_cons _ hv]
    exact ih v

theorem takeInputs_settled {l : List HostInput} {s t : State} (h : takeInputs l s = .next t) :
    takeInputs l s.settled = .next t.settled := by
  induction l generalizing s with
  | nil =>
    cases h
    rfl
  | cons i rest ih =>
    obtain ⟨v, hv⟩ := takeInput_next i s
    rw [takeInputs_cons _ hv] at h
    rw [takeInputs_cons _ (takeInput_settled hv), ih h]

/-! ### The clocked run -/

/-- One edge, settled, is what it takes from the host, taken atomically from the settled state. -/
theorem takeInputs_edgeInput_settled {p : Pins} {s t : State} (h : clockEdge p s = .next t) :
    takeInputs (edgeInput p s) s.settled = .next t.settled := by
  obtain ⟨-, he, hi⟩ | ⟨-, -, he, hi⟩ | ⟨-, -, -, hi, v, hv, he⟩ | ⟨-, -, -, he, hi⟩ := clockEdge_cases p s <;>
    rw [hi] <;> cases he.symm.trans h
  · rfl
  · rfl
  · rw [settled_startBusy]
    exact takeInputs_cons [] (takeInput_command_settled hv)
  · rfl

/-- A run of edges that answers begins with an edge that answers, and its inputs are that edge's and then the rest's. -/
theorem clockRun_cons {held : Nat} {p : Pins} {ps : List Pins} {s t : State} (h : clockRun held (p :: ps) s = .next t) :
    ∃ v, clockEdge p s = .next v ∧ clockRun (heldAfter held p) ps v = .next t ∧
      takenInputs (p :: ps) s = edgeInput p s ++ takenInputs ps v := by
  rw [clockRun] at h
  split at h
  · cases h
  · cases he : clockEdge p s with
    | next v =>
      rw [he] at h
      exact ⟨v, rfl, h, by rw [takenInputs, he]⟩
    | fault r => cases r
    | refused r =>
      rw [he] at h
      cases h

/-- A run of edges, settled, is what it takes from the host, taken atomically in order from the settled state. -/
theorem takeInputs_takenInputs_settled {held : Nat} {ps : List Pins} {s t : State} (h : clockRun held ps s = .next t) :
    takeInputs (takenInputs ps s) s.settled = .next t.settled := by
  induction ps generalizing held s with
  | nil =>
    cases h
    rfl
  | cons p ps ih =>
    obtain ⟨v, hedge, hrun, htaken⟩ := clockRun_cons h
    rw [htaken, takeInputs_append (takeInputs_edgeInput_settled hedge), ih hrun]

/-- Settles O55: the clocked run and the atomic stream, both from the settled state, give one settled result, which fixes the outputs
once BUSY = 0. -/
theorem clockedRunRefinesTheCommandStream : Obligations.ClockedRunRefinesTheCommandStream := by
  intro held ps s t hrun
  obtain ⟨u, hu⟩ := takeInputs_next (takenInputs ps s) s
  have hsettled : t.settled = u.settled :=
    Host.Outcome.next.inj ((takeInputs_takenInputs_settled hrun).symm.trans (takeInputs_settled hu))
  exact ⟨u, hu, hsettled, fun hb => outputs_of_settled (t := awaitReady u) hsettled hb rfl⟩

/-! ### The views of a Word512 -/

/-- A range of bits as a number: the quotient by the weight of its lowest bit, modulo its size. -/
theorem toNat_extractLsb'_eq_div_mod (w : Word512) (start len : Nat) :
    (w.extractLsb' start len).toNat = w.toNat / 2 ^ start % 2 ^ len := by
  rw [BitVec.extractLsb'_toNat, Nat.shiftRight_eq_div_pow]

/-- Byte k of limb i is byte 8i+k of the word. -/
theorem extractLsb'_limb (w : Word512) (i k : Nat) (hk : k < 8) :
    (limb w i).extractLsb' (8 * k) 8 = byte w (8 * i + k) := by
  apply BitVec.eq_of_getLsbD_eq
  intro j hj
  have hbit : 64 * i + (8 * k + j) = 8 * (8 * i + k) + j := by omega
  rw [BitVec.getLsbD_extractLsb', getLsbD_limb, getLsbD_byte, hbit, decide_eq_true (show 8 * k + j < 64 by omega),
    Bool.true_and]

/-- Settles O9: both views are ranges of bits of one integer, and a limb's bytes are the word's. -/
theorem byteAndLimbViewsAgree : Obligations.ByteAndLimbViewsAgree := fun w =>
  ⟨fun _ _ => toNat_extractLsb'_eq_div_mod w _ 8, fun _ _ => toNat_extractLsb'_eq_div_mod w _ 64,
    fun i k _ hk => extractLsb'_limb w i k hk⟩

/-! ### The lanes a command reads -/

/-- A write reads its source only below the count. -/
theorem writeBytes_congr {buf : Vector Byte 64} {start count : Nat} {src src' : Nat → Byte}
    (h : ∀ j, j < count → src j = src' j) : writeBytes buf start count src = writeBytes buf start count src' := by
  apply Vector.ext
  intro j hj
  rw [writeBytes_getElem, writeBytes_getElem]
  split
  next hin => rw [h (j - start) (by omega)]
  next => rfl

/-- ABSORB's effect reads lanes 0 to LEN-1 alone (`20_memory.md` R31). -/
theorem absorbBytes_congr {len : Nat} {d₁ d₂ : Word512} (s : State) (h : ∀ j, j < len → byte d₁ j = byte d₂ j) :
    absorbBytes len d₁ s = absorbBytes len d₂ s := by
  by_cases hd : s.fill.toNat = 0 ∧ len = 64
  · rw [eq_of_bytes fun j hj => h j (hd.2 ▸ hj)]
  · rw [absorbBytes, absorbBytes, if_neg hd, if_neg hd]
    have hfirst (buf : Vector Byte 64) (start : Nat) :
        writeBytes buf start (min (64 - s.fill.toNat) len) (messageByte d₁) =
          writeBytes buf start (min (64 - s.fill.toNat) len) (messageByte d₂) :=
      writeBytes_congr fun j hj => h j (by omega)
    have hrest (buf : Vector Byte 64) (take : Nat) :
        writeBytes buf 0 (len - take) (fun j => messageByte d₁ (take + j)) =
          writeBytes buf 0 (len - take) (fun j => messageByte d₂ (take + j)) :=
      writeBytes_congr fun j hj => h (take + j) (by omega)
    simp only [absorbBuffered, hfirst, hrest]

/-- The decoder passes on the data only for OP = 2. -/
theorem decode_congr_of_op_ne {word : CmdWord} (d₁ d₂ : Word512) (h : opField word ≠ 2) :
    decode word d₁ = decode word d₂ := by
  rw [decode, decode, if_neg h, if_neg h]

/-- Settles O24: ABSORB through its effect, the words that are no ABSORB through the decoder. -/
theorem lanesBeyondLenAreIgnored : Obligations.LanesBeyondLenAreIgnored := by
  refine ⟨fun len d₁ d₂ s h => ?_, fun word d₁ d₂ s h => ?_, fun _ _ => rfl⟩
  · rw [exec, exec, execAbsorb, execAbsorb, absorbBytes_congr s h]
  · rw [acceptCommand, acceptCommand, decode_congr_of_op_ne d₁ d₂ h]

end Sys2Proof.Machine
end

section
/-! PROOFS. The rules of `30_encoding.md`: the opcode map (O3), the operands (O4) and the illegal words (O6). -/

namespace Sys2Proof.Machine

/-! ### When the decoder gives each answer

One condition on the fields of the word per answer (`30_encoding.md` R51, R52), so that no later proof walks through the
decoder's branches. -/

theorem lenLegal_eq_false_iff (len : BitVec 7) : lenLegal len = false ↔ 64 < len.toNat := by simp [lenLegal]

section
variable (word : CmdWord) (data : Word512)

theorem decode_eq_init_iff (w : Bool) :
    decode word data = .ok (.init w) ↔ opField word = 1 ∧ reservedI word = 0 ∧ wField word = w := by
  obtain h | h | h | h | h | h | h | h := decode_cases word data <;> simp_all

theorem decode_eq_absorb_iff (len : BitVec 7) (d : Word512) :
    decode word data = .ok (.absorb len d) ↔
      opField word = 2 ∧ reservedA word = 0 ∧ (lenField word).toNat ≤ 64 ∧ lenField word = len ∧ data = d := by
  rw [← lenLegal_iff]
  obtain h | h | h | h | h | h | h | h := decode_cases word data <;> simp_all

theorem decode_eq_finalize_iff :
    decode word data = .ok .finalize ↔ opField word = 3 ∧ reservedF word = 0 := by
  obtain h | h | h | h | h | h | h | h := decode_cases word data <;> simp_all

theorem decode_eq_illegalOpcode_iff :
    decode word data = .error .illegalOpcode ↔ opField word ≠ 1 ∧ opField word ≠ 2 ∧ opField word ≠ 3 := by
  obtain h | h | h | h | h | h | h | h := decode_cases word data <;> simp_all

theorem decode_eq_reservedNonzero_iff :
    decode word data = .error .reservedNonzero ↔
      (opField word = 1 ∧ reservedI word ≠ 0) ∨ (opField word = 2 ∧ reservedA word ≠ 0) ∨
        (opField word = 3 ∧ reservedF word ≠ 0) := by
  obtain h | h | h | h | h | h | h | h := decode_cases word data <;> simp_all

theorem decode_eq_badLength_iff :
    decode word data = .error .badLength ↔
      opField word = 2 ∧ reservedA word = 0 ∧ 64 < (lenField word).toNat := by
  rw [← lenLegal_eq_false_iff]
  obtain h | h | h | h | h | h | h | h := decode_cases word data <;> simp_all

end

/-! ### Match and mask -/

/-- Words that agree on a range of bits agree on each bit of it. -/
theorem getLsbD_eq_of_extractLsb'_eq {v w : CmdWord} {lo len i : Nat}
    (h : v.extractLsb' lo len = w.extractLsb' lo len) (hlo : lo ≤ i) (hhi : i < lo + len) :
    v.getLsbD i = w.getLsbD i := by
  have hbit := congrArg (BitVec.getLsbD · (i - lo)) h
  simpa [BitVec.getLsbD_extractLsb', show i - lo < len by omega, show lo + (i - lo) = i by omega] using hbit

/-- A command word is its OP, its operand bits and its reserved bits. -/
theorem eq_iff_fields {operand reserved : Nat} (hlen : 4 + operand + reserved = 32) (v w : CmdWord) :
    v = w ↔ opField v = opField w ∧ v.extractLsb' 4 operand = w.extractLsb' 4 operand ∧
      v.extractLsb' (4 + operand) reserved = w.extractLsb' (4 + operand) reserved := by
  refine ⟨fun h => h ▸ ⟨rfl, rfl, rfl⟩, fun ⟨hop, hmid, hres⟩ => BitVec.eq_of_getLsbD_eq fun i hlt => ?_⟩
  by_cases hlow : i < 4
  · exact getLsbD_eq_of_extractLsb'_eq hop (by omega) (by omega)
  · by_cases hbelow : i < 4 + operand
    · exact getLsbD_eq_of_extractLsb'_eq hmid (by omega) hbelow
    · exact getLsbD_eq_of_extractLsb'_eq hres (by omega) (by omega)

/-- Under a mask that covers OP and the reserved bits and leaves out `operand` operand bits, a word has the masked value whose
reserved bits are 0 exactly when its OP is that value's and its own reserved bits are 0 (`30_encoding.md` R51). -/
theorem and_eq_iff_of_mask {operand reserved : Nat} (hlen : 4 + operand + reserved = 32) {mask value : CmdWord}
    (hmask : opField mask = BitVec.allOnes 4 ∧ mask.extractLsb' 4 operand = 0 ∧
      mask.extractLsb' (4 + operand) reserved = BitVec.allOnes reserved)
    (hvalue : value.extractLsb' 4 operand = 0 ∧ value.extractLsb' (4 + operand) reserved = 0) (word : CmdWord) :
    word &&& mask = value ↔ opField word = opField value ∧ word.extractLsb' (4 + operand) reserved = 0 := by
  obtain ⟨hop, hmid, hres⟩ := hmask
  obtain ⟨hvmid, hvres⟩ := hvalue
  have hopAnd : opField (word &&& mask) = opField word &&& opField mask := BitVec.extractLsb'_and
  rw [eq_iff_fields hlen, hopAnd, BitVec.extractLsb'_and, BitVec.extractLsb'_and, hop, hmid, hres, hvmid, hvres,
    BitVec.and_allOnes, BitVec.and_allOnes]
  simp

theorem and_maskI_eq_iff (word : CmdWord) :
    word &&& 0xFFFFFFEF = 0x00000001 ↔ opField word = 1 ∧ reservedI word = 0 :=
  and_eq_iff_of_mask (operand := 1) (reserved := 27) rfl (by decide) (by decide) word

theorem and_maskA_eq_iff (word : CmdWord) :
    word &&& 0xFFFFF80F = 0x00000002 ↔ opField word = 2 ∧ reservedA word = 0 :=
  and_eq_iff_of_mask (operand := 7) (reserved := 21) rfl (by decide) (by decide) word

theorem and_maskF_eq_iff (word : CmdWord) :
    word &&& 0xFFFFFFFF = 0x00000003 ↔ opField word = 3 ∧ reservedF word = 0 :=
  and_eq_iff_of_mask (operand := 0) (reserved := 28) rfl (by decide) (by decide) word

/-- The OPs of no command are 0 and 4 to 15. -/
theorem op_illegal_iff (op : BitVec 4) : (op ≠ 1 ∧ op ≠ 2 ∧ op ≠ 3) ↔ (op = 0 ∨ 4 ≤ op.toNat) := by
  bv_omega

/-- Settles O3: each row from the decoder's condition and the mask's, the examples by evaluation. -/
theorem opcodeMapMatchAndMask : Obligations.OpcodeMapMatchAndMask := by
  refine ⟨fun word data => ⟨?_, ?_, ?_, ?_⟩, fun _ => ⟨rfl, rfl, rfl, rfl, rfl, rfl, rfl⟩⟩
  · rw [and_maskI_eq_iff]
    simp [decode_eq_init_iff]
  · rw [and_maskA_eq_iff, and_assoc, ← lenField]
    simp [decode_eq_absorb_iff]
  · rw [and_maskF_eq_iff, decode_eq_finalize_iff]
  · rw [decode_eq_illegalOpcode_iff, op_illegal_iff, opField]

/-! ### Operands -/

/-- LEN is the word without its low four bits, modulo 2^7 (`30_encoding.md` R50). -/
theorem toNat_lenField (word : CmdWord) : (lenField word).toNat = word.toNat / 16 % 128 := by
  rw [lenField, BitVec.extractLsb'_toNat, Nat.shiftRight_eq_div_pow]

@[simp] theorem length_messageBytes (len : BitVec 7) (data : Word512) : (messageBytes len data).length = len.toNat := by
  simp [messageBytes]

/-- Message byte j of an ABSORB is lane j of the data (`20_memory.md` R31). -/
theorem messageBytes_getElem? {len : BitVec 7} {j : Nat} (data : Word512) (hj : j < len.toNat) :
    (messageBytes len data)[j]? = some (byte data j) := by
  simp [messageBytes, messageByte, hj]

/-- Settles O4: the operands are those of the decoder's conditions, LEN read as a number and the bytes lane by lane. -/
theorem operandsAreTheFields : Obligations.OperandsAreTheFields := by
  refine fun word data => ⟨fun w h => ?_, fun len d h => ?_⟩
  · obtain ⟨-, -, hw⟩ := (decode_eq_init_iff word data w).1 h
    exact hw.symm
  · obtain ⟨-, -, -, rfl, rfl⟩ := (decode_eq_absorb_iff word data len d).1 h
    exact ⟨toNat_lenField word, rfl, length_messageBytes _ _, fun j hj => messageBytes_getElem? data hj⟩

/-! ### Illegal words -/

/-- Outside FAULT a rejected word takes its misuse. -/
theorem acceptCommand_of_decode_error {word : CmdWord} {data : Word512} {c : Misuse} {s : State} (hs : s.phase ≠ .fault)
    (h : decode word data = .error c) : acceptCommand word data s = .next (raiseMisuse c s) := by
  rw [acceptCommand, h]
  exact congrArg Host.Outcome.next (unlessFault_of_ne _ hs)

/-- Settles O6: each case is a word the decoder rejects with the misuse named. -/
theorem illegalWordsRaiseTheirMisuse : Obligations.IllegalWordsRaiseTheirMisuse := by
  intro word data s hs
  have hop {k : BitVec 4} (h : (opField word).toNat = k.toNat) : opField word = k := BitVec.eq_of_toNat_eq h
  have hreserved h := acceptCommand_of_decode_error hs ((decode_eq_reservedNonzero_iff word data).2 h)
  refine ⟨fun h => ?_, fun h hr => ?_, fun h hr => ?_, fun h hr => ?_, fun h hr hl => ?_⟩
  · have hillegal := (op_illegal_iff (opField word)).2 (h.imp_left (hop (k := 0)))
    exact acceptCommand_of_decode_error hs ((decode_eq_illegalOpcode_iff word data).2 hillegal)
  · exact hreserved (.inl ⟨hop h, hr⟩)
  · exact hreserved (.inr (.inl ⟨hop h, hr⟩))
  · exact hreserved (.inr (.inr ⟨hop h, hr⟩))
  · exact acceptCommand_of_decode_error hs ((decode_eq_badLength_iff word data).2 ⟨hop h, hr, hl⟩)

end Sys2Proof.Machine
end

section
/-! PROOFS. The rules of `40_word_adder.md`: the conversions (O8), and ADD512 in its limb form and its byte form (O10, O11, O12). -/

namespace Sys2Proof.Machine

/-! ### The conversions -/

/-- Limb i of `from_limbs` is limb i of the vector. -/
theorem limb_fromLimbs (l : Vector Limb 8) (i : Nat) (hi : i < 8) : limb (fromLimbs l) i = l[i] := by
  rw [fromLimbs, limb_ofLimbLanes _ i hi]
  simp [Vector.getD, hi]

/-- Limb i of `limbs` is limb i of the word. -/
@[simp] theorem toLimbs_getElem (w : Word512) (i : Nat) (hi : i < 8) : (toLimbs w)[i] = limb w i := by
  simp [toLimbs]

theorem fromBytes_toBytes (w : Word512) : fromBytes (toBytes w) = w :=
  eq_of_bytes fun j hj => by rw [byte_fromBytes _ j hj, toBytes_getElem]

theorem toBytes_fromBytes (b : Vector Byte 64) : toBytes (fromBytes b) = b :=
  Vector.ext fun j hj => by rw [toBytes_getElem, byte_fromBytes b j hj]

theorem fromLimbs_toLimbs (w : Word512) : fromLimbs (toLimbs w) = w :=
  eq_of_limbs fun i hi => by rw [limb_fromLimbs _ i hi, toLimbs_getElem]

theorem toLimbs_fromLimbs (l : Vector Limb 8) : toLimbs (fromLimbs l) = l :=
  Vector.ext fun i hi => by rw [toLimbs_getElem, limb_fromLimbs l i hi]

/-- The low k lanes of a number, each at its weight, are the number modulo the weight of lane k. -/
theorem sum_lanes_eq_mod (n len k : Nat) :
    ∑ j ∈ Finset.range k, n / 2 ^ (len * j) % 2 ^ len * 2 ^ (len * j) = n % 2 ^ (len * k) := by
  induction k with
  | zero => simp [Nat.mod_one]
  | succ k ih => rw [Finset.sum_range_succ, ih, Nat.mul_succ, pow_add, Nat.mod_mul, Nat.mul_comm (2 ^ (len * k))]

/-- A Word512 cut into k lanes of one length is the sum of its lanes, each at its weight (`20_memory.md` R29). -/
theorem toNat_eq_sum_lanes (w : Word512) {len k : Nat} (h : len * k = 512) :
    w.toNat = ∑ j : Fin k, (w.extractLsb' (len * j) len).toNat * 2 ^ (len * j.val) := by
  simp only [toNat_extractLsb'_eq_div_mod]
  rw [Fin.sum_univ_eq_sum_range fun j => w.toNat / 2 ^ (len * j) % 2 ^ len * 2 ^ (len * j), sum_lanes_eq_mod, h,
    Nat.mod_eq_of_lt w.isLt]

theorem toNat_fromBytes (b : Vector Byte 64) :
    (fromBytes b).toNat = ∑ j : Fin 64, b[j].toNat * 2 ^ (8 * j.val) := by
  rw [toNat_eq_sum_lanes (fromBytes b) (len := 8) (k := 64) rfl]
  exact Finset.sum_congr rfl fun j _ => congrArg (·.toNat * _) (byte_fromBytes b j j.isLt)

theorem toNat_fromLimbs (l : Vector Limb 8) :
    (fromLimbs l).toNat = ∑ i : Fin 8, l[i].toNat * 2 ^ (64 * i.val) := by
  rw [toNat_eq_sum_lanes (fromLimbs l) (len := 64) (k := 8) rfl]
  exact Finset.sum_congr rfl fun i _ => congrArg (·.toNat * _) (limb_fromLimbs l i i.isLt)

/-- Settles O8: each pair lane by lane, each value as the sum of the word's lanes. -/
theorem byteConversionsAreInverse : Obligations.ByteConversionsAreInverse :=
  ⟨fun w => ⟨fromBytes_toBytes w, fromLimbs_toLimbs w, toBytes_getElem w, toLimbs_getElem w⟩,
    fun b => ⟨toBytes_fromBytes b, toNat_fromBytes b⟩, fun l => ⟨toLimbs_fromLimbs l, toNat_fromLimbs l⟩⟩

/-! ### The carry of the limb form -/

/-- Two limbs and a one-bit carry sum to at most 65 bits (`40_word_adder.md` R59). -/
theorem limbSum_lt (x y : Limb) {c : Nat} (hc : c ≤ 1) : limbSum x y c < 2 ^ 65 := by
  have := x.isLt
  have := y.isLt
  rw [limbSum]
  omega

theorem limbCarry_succ (x y : Word512) (i : Nat) :
    limbCarry x y (i + 1) = limbSum (limb x i) (limb y i) (limbCarry x y i) / 2 ^ 64 := rfl

theorem limbCarry_le_one (x y : Word512) (i : Nat) : limbCarry x y i ≤ 1 := by
  induction i with
  | zero => exact Nat.zero_le 1
  | succ i ih =>
    have hsum := limbSum_lt (limb x i) (limb y i) ih
    rw [limbCarry_succ]
    omega

/-- The quotient of a 65-bit number by 2^64 is its bit 64. -/
theorem div_eq_toNat_testBit_64 {n : Nat} (h : n < 2 ^ 65) : n / 2 ^ 64 = (n.testBit 64).toNat := by
  rw [Nat.toNat_testBit]
  omega

/-- Limb i of the limb form is the exact sum's low 64 bits. -/
theorem limb_addByLimbs (x y : Word512) (i : Nat) (hi : i < 8) :
    limb (addByLimbs x y) i = BitVec.ofNat 64 (limbSum (limb x i) (limb y i) (limbCarry x y i)) :=
  limb_ofLimbLanes _ i hi

/-- Settles O11: a one-bit carry keeps the sum to 65 bits, and a sum of 65 bits carries one bit. -/
theorem limbCarryIsOneBit : Obligations.LimbCarryIsOneBit := by
  intro x y i
  have hc := limbCarry_le_one x y i
  have hsum := limbSum_lt (limb x i) (limb y i) hc
  refine ⟨rfl, hc, hsum, ?_, fun hi => ?_⟩
  · rw [limbCarry_succ, div_eq_toNat_testBit_64 hsum]
  · rw [limb_addByLimbs x y i hi, BitVec.toNat_ofNat]

/-- Adding all ones and a carry of 1 is adding 2^64. -/
theorem limbSum_allOnes_one (x : Limb) : limbSum x (BitVec.allOnes 64) 1 = x.toNat + 2 ^ 64 := by
  simp [limbSum]

theorem limbSum_zero_zero (x : Limb) : limbSum x 0 0 = x.toNat := by
  simp [limbSum]

/-- Settles O12: both sums have the limb of x as their low 64 bits, and only the first has bit 64. -/
theorem carryNeedsTheExactSum : Obligations.CarryNeedsTheExactSum := by
  intro x y i hi
  have hx := (limb x i).isLt
  refine ⟨fun hy hc => ?_, fun hy hc => ?_⟩
  · have hlimb : limb (addByLimbs x y) i = limb x i := by
      rw [limb_addByLimbs x y i hi, hy, hc, limbSum_allOnes_one, BitVec.ofNat_add, BitVec.ofNat_toNat, BitVec.setWidth_eq]
      exact BitVec.add_zero _
    refine ⟨hlimb, ?_, hlimb ▸ Nat.lt_irrefl _⟩
    rw [limbCarry_succ, hy, hc, limbSum_allOnes_one]
    omega
  · rw [limb_addByLimbs x y i hi, limbCarry_succ, hy, hc, limbSum_zero_zero]
    exact ⟨(BitVec.ofNat_toNat ..).trans (BitVec.setWidth_eq _), Nat.div_eq_of_lt hx⟩

/-! ### Schoolbook addition

Both forms add two integers digit by digit, the limb form in base 2^64 and the byte form in base 2^8 (`40_word_adder.md` R62). The
carry into the digit of weight W is the sum of what stands below it in the two integers, divided by W. -/

/-- The carry out of the digit of weight W is the carry into the digit of weight W * B. -/
theorem digitSum_div {x y W B : Nat} (hW : 0 < W) :
    (x / W % B + y / W % B + (x % W + y % W) / W) / B = (x % (W * B) + y % (W * B)) / (W * B) := by
  have hlow : x % (W * B) + y % (W * B) = x % W + y % W + W * (x / W % B + y / W % B) := by
    rw [Nat.mod_mul, Nat.mod_mul]
    ring
  rw [hlow, ← Nat.div_div_eq_div_mul, Nat.add_mul_div_left _ _ hW, Nat.add_comm (_ / W)]

/-- The digit of weight W of a sum is the sum of the digits and the carry, modulo the base. -/
theorem digitSum_mod {x y W B : Nat} (hW : 0 < W) :
    (x / W % B + y / W % B + (x % W + y % W) / W) % B = (x + y) / W % B := by
  have hsplit : x + y = x % W + y % W + W * (x / W + y / W) := by
    have hx := Nat.mod_add_div x W
    have hy := Nat.mod_add_div y W
    rw [Nat.mul_add]
    omega
  have hquot : (x + y) / W = x / W + y / W + (x % W + y % W) / W := by
    rw [hsplit, Nat.add_mul_div_left _ _ hW, Nat.add_comm (_ / W)]
  rw [hquot]
  simp [Nat.add_mod]

/-- ADD512 as a number (`40_word_adder.md` R63). -/
theorem toNat_add512 (x y : Word512) : (add512 x y).toNat = (x.toNat + y.toNat) % 2 ^ 512 := by
  -- for every width, so that 2^512 is never evaluated
  have hadd (n : Nat) (a b : BitVec n) : (a + b).toNat = (a.toNat + b.toNat) % 2 ^ n := BitVec.toNat_add a b
  exact hadd 512 x y

/-- A lane of ADD512 is the lane of the exact sum, which the lost carry does not reach. -/
theorem toNat_extractLsb'_add512 (x y : Word512) {start len : Nat} (h : start + len ≤ 512) :
    ((add512 x y).extractLsb' start len).toNat = (x.toNat + y.toNat) / 2 ^ start % 2 ^ len := by
  have hsize : 2 ^ 512 = 2 ^ start * 2 ^ (512 - start) := by rw [← pow_add, Nat.add_sub_cancel' (by omega)]
  rw [toNat_extractLsb'_eq_div_mod, toNat_add512, hsize, Nat.mod_mul_right_div_self,
    Nat.mod_mod_of_dvd _ (pow_dvd_pow 2 (by omega))]

theorem toNat_limb (w : Word512) (i : Nat) : (limb w i).toNat = w.toNat / 2 ^ (64 * i) % 2 ^ 64 :=
  toNat_extractLsb'_eq_div_mod w _ 64

theorem toNat_byte (w : Word512) (j : Nat) : (byte w j).toNat = w.toNat / 2 ^ (8 * j) % 2 ^ 8 :=
  toNat_extractLsb'_eq_div_mod w _ 8

theorem byteAcc_succ (x y : Word512) (j : Nat) :
    byteAcc x y (j + 1) = (byte x j).toNat + (byte y j).toNat + byteAcc x y j / 2 ^ 8 := rfl

/-- The limb form's carry into limb i is the schoolbook carry at weight 2^(64i). -/
theorem limbCarry_eq (x y : Word512) (i : Nat) :
    limbCarry x y i = (x.toNat % 2 ^ (64 * i) + y.toNat % 2 ^ (64 * i)) / 2 ^ (64 * i) := by
  induction i with
  | zero => simp [limbCarry, Nat.mod_one]
  | succ i ih =>
    rw [limbCarry_succ, limbSum, toNat_limb, toNat_limb, ih, digitSum_div (Nat.two_pow_pos _), ← pow_add,
      Nat.mul_succ]

/-- What the accumulator carries into byte j is the schoolbook carry at weight 2^(8j). -/
theorem byteAcc_div_eq (x y : Word512) (j : Nat) :
    byteAcc x y j / 2 ^ 8 = (x.toNat % 2 ^ (8 * j) + y.toNat % 2 ^ (8 * j)) / 2 ^ (8 * j) := by
  induction j with
  | zero => simp [byteAcc, Nat.mod_one]
  | succ j ih =>
    rw [byteAcc_succ, toNat_byte, toNat_byte, ih, digitSum_div (Nat.two_pow_pos _), ← pow_add, Nat.mul_succ]

theorem addByLimbs_eq_add512 (x y : Word512) : addByLimbs x y = add512 x y :=
  eq_of_limbs fun i hi => BitVec.eq_of_toNat_eq <| by
    rw [limb_addByLimbs x y i hi, BitVec.toNat_ofNat, limbSum, toNat_limb, toNat_limb, limbCarry_eq,
      digitSum_mod (Nat.two_pow_pos _), limb, toNat_extractLsb'_add512 x y (by omega)]

theorem addByBytes_eq_add512 (x y : Word512) : addByBytes x y = add512 x y :=
  eq_of_bytes fun j hj => BitVec.eq_of_toNat_eq <| by
    rw [addByBytes, byte_ofByteLanes _ j hj, BitVec.toNat_ofNat, byteAcc_succ, toNat_byte, toNat_byte, byteAcc_div_eq,
      digitSum_mod (Nat.two_pow_pos _), byte, toNat_extractLsb'_add512 x y (by omega)]

/-- Settles O10: each form is the applied adder, lane by lane. -/
theorem adderFormsAgree : Obligations.AdderFormsAgree := fun x y =>
  ⟨(addByLimbs_eq_add512 x y).trans (addByBytes_eq_add512 x y).symm, addByLimbs_eq_add512 x y, toNat_add512 x y⟩

end Sys2Proof.Machine
end

section
/-! PROOFS. The rules of `41_compression_g.md`: the substitution (O13), the byte permutation (O14), the linear map (O15), their
composition LPSX (O16), and g by its key schedule (O18). -/

namespace Sys2Proof.Machine

/-! ### The substitution -/

/-- Byte j of S(a) is PI of byte j of a. -/
@[simp] theorem byte_substitute (a : Word512) (j : Nat) (hj : j < 64) : byte (substitute a) j = sbox (byte a j) :=
  byte_ofByteLanes _ j hj

theorem byte_zero (j : Nat) : byte 0 j = 0 := BitVec.extractLsb'_zero

theorem sbox_zero : sbox 0 = 0xFC := rfl

theorem byte_substitute_zero (j : Nat) (hj : j < 64) : byte (substitute 0) j = 0xFC := by
  rw [byte_substitute 0 j hj, byte_zero, sbox_zero]

/-- Settles O13: S is the join of the images, and `PI[0x00]` is 0xFC. -/
theorem substituteActsOnEveryByte : Obligations.SubstituteActsOnEveryByte := ⟨byte_substitute, byte_substitute_zero⟩

/-! ### The byte permutation -/

theorem tau_lt {j : Nat} (hj : j < 64) : tau j < 64 := by rw [tau]; omega

/-- TAU swaps the row and the column of a byte of the 8 x 8 matrix. -/
theorem tau_row_col (r : Nat) {c : Nat} (hc : c < 8) : tau (8 * r + c) = 8 * c + r := by rw [tau]; omega

theorem tau_tau {j : Nat} (hj : j < 64) : tau (tau j) = j := by rw [tau, tau]; omega

/-- Byte j of P(a) is byte `TAU[j]` of a. -/
@[simp] theorem byte_permute (a : Word512) (j : Nat) (hj : j < 64) : byte (permute a) j = byte a (tau j) :=
  byte_ofByteLanes _ j hj

theorem byte_permute_tau (a : Word512) (j : Nat) (hj : j < 64) : byte (permute a) (tau j) = byte a j := by
  rw [byte_permute a _ (tau_lt hj), tau_tau hj]

theorem permute_permute (a : Word512) : permute (permute a) = a :=
  eq_of_bytes fun j hj => by rw [byte_permute _ j hj, byte_permute_tau a j hj]

/-- Settles O14: TAU is its own inverse on the 64 byte indices, and swaps row and column. -/
theorem permuteTransposesTheBytes : Obligations.PermuteTransposesTheBytes := fun a =>
  ⟨fun j hj => ⟨byte_permute a j hj, tau_tau hj, byte_permute_tau a j hj⟩, permute_permute a, fun i k hi hk => by
    rw [extractLsb'_limb _ i k hk, extractLsb'_limb a k i hi, byte_permute a _ (by omega), tau_row_col i hk]⟩

/-! ### The linear map -/

/-- Each row is taken by u xor v exactly when one of u and v takes it and the other does not. -/
theorem linearRows_xor (u v : Limb) (rows : List Limb) (k : Nat) :
    linearRows (u ^^^ v) rows k = linearRows u rows k ^^^ linearRows v rows k := by
  induction rows generalizing k with
  | nil => simp [linearRows]
  | cons row rows ih =>
    cases k with
    | zero => simp [linearRows]
    | succ k =>
      have hrow : (if (u ^^^ v).getLsbD k then row else 0) =
          (if u.getLsbD k then row else 0) ^^^ (if v.getLsbD k then row else 0) := by
        rw [BitVec.getLsbD_xor]
        cases u.getLsbD k <;> cases v.getLsbD k <;> simp
      rw [linearRows, linearRows, linearRows, hrow, ih]
      ac_rfl

/-- No row is taken when the k bits that select rows are 0. -/
theorem linearRows_eq_zero {v : Limb} (rows : List Limb) {k : Nat} (h : ∀ i, i < k → v.getLsbD i = false) :
    linearRows v rows k = 0 := by
  induction rows generalizing k with
  | nil => rfl
  | cons row rows ih =>
    cases k with
    | zero => rfl
    | succ k =>
      rw [linearRows, h k (by omega), ih fun i hi => h i (by omega)]
      simp

/-- The single bit k-1-b takes row b alone. -/
theorem linearRows_twoPow (rows : List Limb) {b k : Nat} (hb : b < k) (hk : k ≤ 64) :
    linearRows (BitVec.twoPow 64 (k - 1 - b)) rows k = rows.getD b 0 := by
  induction rows generalizing b k with
  | nil => rfl
  | cons row rows ih =>
    obtain ⟨k, rfl⟩ : ∃ k', k = k' + 1 := ⟨k - 1, by omega⟩
    rw [linearRows, BitVec.getLsbD_twoPow]
    cases b with
    | zero =>
      rw [linearRows_eq_zero rows fun i hi => by simp [BitVec.getLsbD_twoPow]; omega]
      simp [show k < 64 by omega]
    | succ b =>
      rw [show k + 1 - 1 - (b + 1) = k - 1 - b by omega, ih (by omega) (by omega)]
      simp [show k - 1 - b ≠ k by omega]

theorem linearLimb_xor (u v : Limb) : linearLimb (u ^^^ v) = linearLimb u ^^^ linearLimb v :=
  linearRows_xor u v matrixRows 64

theorem linearLimb_zero : linearLimb 0 = 0 := linearRows_eq_zero matrixRows fun _ _ => BitVec.getLsbD_zero

/-- Bit 63-b alone selects row `A[b]`. -/
theorem linearLimb_twoPow {b : Nat} (hb : b < 64) : linearLimb (BitVec.twoPow 64 (63 - b)) = matrixRow b :=
  linearRows_twoPow matrixRows hb le_rfl

/-- Limb i of L(a) is l of limb i of a. -/
@[simp] theorem limb_linear (a : Word512) (i : Nat) (hi : i < 8) : limb (linear a) i = linearLimb (limb a i) :=
  limb_ofLimbLanes _ i hi

/-- Settles O15: linearity row by row, and the worked values as the images of the highest and the lowest bit. -/
theorem linearMapIsTheMatrix : Obligations.LinearMapIsTheMatrix :=
  ⟨linearLimb_xor, linearLimb_zero, fun _ => linearLimb_twoPow, limb_linear,
    linearLimb_twoPow (b := 0) (by decide), linearLimb_twoPow (b := 63) (by decide)⟩

/-! ### LPSX -/

theorem lpsx_eq (k a : Word512) : lpsx k a = linear (permute (substitute (k ^^^ a))) := rfl

theorem lpsx_comm (k a : Word512) : lpsx k a = lpsx a k := by rw [lpsx_eq, lpsx_eq, BitVec.xor_comm]

/-- Every byte of S(0) is the same, so P leaves S(0) as it is. -/
theorem permute_substitute_zero : permute (substitute 0) = ofByteLanes fun _ => 0xFC :=
  eq_of_bytes fun j hj => by
    rw [byte_permute _ j hj, byte_substitute_zero _ (tau_lt hj), byte_ofByteLanes _ j hj]

theorem limb_repeated_fc : ∀ i, i < 8 → limb (ofByteLanes fun _ => 0xFC) i = 0xFCFCFCFCFCFCFCFC := by decide +kernel

/-- Settles O16: the exclusive or commutes, and LPSX(0, 0) is L of the word with every byte 0xFC. -/
theorem lpsxComposesItsParts : Obligations.LpsxComposesItsParts := by
  refine ⟨fun k a => ⟨lpsx_eq k a, lpsx_comm k a⟩, fun i hi => ?_⟩
  calc limb (lpsx 0 0) i
    _ = limb (linear (permute (substitute 0))) i := by rw [lpsx_eq, BitVec.xor_self]; rfl
    _ = linearLimb 0xFCFCFCFCFCFCFCFC := by rw [permute_substitute_zero, limb_linear _ i hi, limb_repeated_fc i hi]
    _ = 0xB383FC2ECED4A574 := by decide

/-! ### The key schedule -/

/-- The inner rounds over the constants `cs` lead along any keys and states that obey the rounds' recursion. -/
theorem gRounds_eq_of_schedule (cs : List Word512) (K S : Nat → Word512)
    (hK : ∀ i (hi : i < cs.length), K (i + 1) = lpsx (K i) cs[i])
    (hS : ∀ i, i < cs.length → S (i + 1) = lpsx (K (i + 1)) (S i)) :
    gRounds cs (K 0) (S 0) = (K cs.length, S cs.length) := by
  induction cs generalizing K S with
  | nil => rfl
  | cons c cs ih =>
    have hK1 : lpsx (K 0) c = K 1 := (hK 0 (Nat.zero_lt_succ _)).symm
    have hS1 : lpsx (K 1) (S 0) = S 1 := (hS 0 (Nat.zero_lt_succ _)).symm
    rw [gRounds, hK1, hS1]
    exact ih (fun i => K (i + 1)) (fun i => S (i + 1)) (fun i hi => hK (i + 1) (Nat.succ_lt_succ hi))
      fun i hi => hS (i + 1) (Nat.succ_lt_succ hi)

theorem length_innerConstants : innerConstants.length = 11 := rfl

/-- `C[i]` is constant i of the inner rounds, for the eleven of them. -/
theorem roundConstant_eq_getElem (i : Nat) (hi : i < innerConstants.length) : roundConstant i = innerConstants[i] := by
  rw [roundConstant, List.getD_append _ _ _ _ hi, List.getD_eq_getElem _ _ hi]

theorem roundConstant_last : roundConstant 11 = lastConstant := rfl

/-- Settles O18: the inner rounds take K1 and s1 to K12 and s12, and `C[11]` makes K13 of K12. -/
theorem compressionFollowsTheKeySchedule : Obligations.CompressionFollowsTheKeySchedule := by
  intro h n m K S hK1 hK hK13 hS1 hS
  have hrounds : gRounds innerConstants (K 1) (S 1) = (K 12, S 12) :=
    gRounds_eq_of_schedule innerConstants (fun i => K (i + 1)) (fun i => S (i + 1))
      (fun i hi => by rw [← roundConstant_eq_getElem i hi]; exact hK i (Nat.le_of_lt_succ hi))
      fun i hi => hS i (Nat.le_of_lt_succ hi)
  rw [g, transformE, ← hK1, ← hS1, hrounds, hK13, roundConstant_last]

end Sys2Proof.Machine
end

section
/-! PROOFS. The rules of `42_context_commands.md`: the command step (O31) and the phases (O32, O35), INIT (O20, O21), ABSORB (O22),
FINALIZE (O26), and whole messages (O49, O50, O51, O27). -/

namespace Sys2Proof.Machine

/-! ### The checks and the effects of a command -/

/-- The phase check of `60_exceptions.md` R108, its last two rows. -/
def phaseMisuse : Instr → Phase → Option Misuse
  | .init _, _ => none
  | .absorb _ _, .idle | .finalize, .idle => some .noContext
  | .absorb _ _, .done | .finalize, .done => some .consumed
  | .absorb _ _, .active | .absorb _ _, .fault | .finalize, .active | .finalize, .fault => none

/-- The effect of a command that passes its checks (`42_context_commands.md` R81). -/
def commandEffect : Instr → State → State
  | .init w => openContext w
  | .absorb len data => absorbBytes len.toNat data
  | .finalize => finalizeContext

/-- ABSORB and FINALIZE pass the phase check in ACTIVE alone. -/
theorem phaseMisuse_of_ne_init {i : Instr} (hi : ∀ w, i ≠ .init w) :
    phaseMisuse i .idle = some .noContext ∧ phaseMisuse i .active = none ∧ phaseMisuse i .done = some .consumed := by
  cases i with
  | init w => exact absurd rfl (hi w)
  | absorb len data => exact ⟨rfl, rfl, rfl⟩
  | finalize => exact ⟨rfl, rfl, rfl⟩

/-- Outside FAULT the phase gate takes the misuse of the phase check, or gives the effect. -/
theorem whenActive_eq_phaseMisuse {i : Instr} {s : State} (t : State) (hi : ∀ w, i ≠ .init w) (hs : s.phase ≠ .fault) :
    whenActive s t = (phaseMisuse i s.phase).elim t (raiseMisuse · s) := by
  obtain ⟨hidle, hactive, hdone⟩ := phaseMisuse_of_ne_init hi
  cases hp : s.phase with
  | idle => rw [whenActive_of_idle t hp, hidle, Option.elim]
  | active => rw [whenActive_of_active t hp, hactive, Option.elim]
  | done => rw [whenActive_of_done t hp, hdone, Option.elim]
  | fault => exact absurd hp hs

/-- Outside FAULT a well-formed command takes the misuse of its phase check, or has its effect. -/
theorem exec_of_wellFormed {i : Instr} {s : State} (hi : i.wellFormed = true) (hs : s.phase ≠ .fault) :
    exec i s = .next ((phaseMisuse i s.phase).elim (commandEffect i s) (raiseMisuse · s)) := by
  cases i with
  | init w => exact congrArg Host.Outcome.next (unlessFault_of_ne _ hs)
  | absorb len data =>
    have hlen : lenLegal len = true := hi
    rw [exec, execAbsorb, unlessFault_of_ne _ hs, if_pos hlen,
      whenActive_eq_phaseMisuse (i := .absorb len data) _ nofun hs, commandEffect]
  | finalize =>
    rw [exec, execFinalize, unlessFault_of_ne _ hs, whenActive_eq_phaseMisuse (i := .finalize) _ nofun hs, commandEffect]

/-- In FAULT every command is ignored (`60_exceptions.md` R111). -/
theorem exec_of_fault (i : Instr) {s : State} (h : s.phase = .fault) : exec i s = .next s := by
  cases i <;> exact congrArg Host.Outcome.next (unlessFault_of_fault _ h)

/-- In ACTIVE a well-formed command has its effect. -/
theorem exec_of_active {i : Instr} {s : State} (hi : i.wellFormed = true) (hs : s.phase = .active) :
    exec i s = .next (commandEffect i s) := by
  rw [exec_of_wellFormed hi (by simp [hs]), hs]
  cases i <;> rfl

theorem exec_init_of_ne_fault (w : Bool) {s : State} (hs : s.phase ≠ .fault) :
    exec (.init w) s = .next (openContext w s) :=
  exec_of_wellFormed (i := .init w) rfl hs

/-- In IDLE a well-formed ABSORB or FINALIZE raises NO_CONTEXT. -/
theorem exec_of_idle {i : Instr} {s : State} (hi : i.wellFormed = true) (hne : ∀ w, i ≠ .init w) (hs : s.phase = .idle) :
    exec i s = .next (raiseMisuse .noContext s) := by
  obtain ⟨hidle, -, -⟩ := phaseMisuse_of_ne_init hne
  rw [exec_of_wellFormed hi (by simp [hs]), hs, hidle, Option.elim]

/-- In DONE a well-formed ABSORB or FINALIZE raises CONSUMED. -/
theorem exec_of_done {i : Instr} {s : State} (hi : i.wellFormed = true) (hne : ∀ w, i ≠ .init w) (hs : s.phase = .done) :
    exec i s = .next (raiseMisuse .consumed s) := by
  obtain ⟨-, -, hdone⟩ := phaseMisuse_of_ne_init hne
  rw [exec_of_wellFormed hi (by simp [hs]), hs, hdone, Option.elim]

/-! ### One accepted transfer -/

/-- A command that decodes has a legal LEN. -/
theorem wellFormed_of_decode {word : CmdWord} {data : Word512} {i : Instr} (h : decode word data = .ok i) :
    i.wellFormed = true := by
  cases i with
  | init w => rfl
  | absorb len d =>
    obtain ⟨-, -, hlen, rfl, -⟩ := (decode_eq_absorb_iff word data len d).1 h
    exact (lenLegal_iff _).2 hlen
  | finalize => rfl

theorem acceptCommand_of_decode_ok {word : CmdWord} {data : Word512} {i : Instr} (s : State)
    (h : decode word data = .ok i) : acceptCommand word data s = exec i s := by
  rw [acceptCommand, h]

theorem acceptCommand_of_fault (word : CmdWord) (data : Word512) {s : State} (hs : s.phase = .fault) :
    acceptCommand word data s = .next s := by
  obtain ⟨i, -, h⟩ | ⟨c, -, h⟩ := acceptCommand_cases word data s
  · rw [h, exec_of_fault i hs]
  · rw [h, unlessFault_of_fault _ hs]

/-- A reserved bit of the word's format raises RESERVED_NONZERO outside FAULT. -/
theorem acceptCommand_of_reserved {word : CmdWord} (data : Word512) {s : State} (hs : s.phase ≠ .fault)
    (h : (opField word = 1 ∧ reservedI word ≠ 0) ∨ (opField word = 2 ∧ reservedA word ≠ 0) ∨
      (opField word = 3 ∧ reservedF word ≠ 0)) :
    acceptCommand word data s = .next { s with phase := .fault, cause := 2 } :=
  acceptCommand_of_decode_error hs ((decode_eq_reservedNonzero_iff word data).2 h)

/-- The checks as `60_exceptions.md` R108 writes them are the decoder's and then the phase check. -/
theorem checkCommand_eq (word : CmdWord) (data : Word512) (p : Phase) :
    (∃ i, decode word data = .ok i ∧ checkCommand word p = phaseMisuse i p) ∨
      ∃ c, decode word data = .error c ∧ checkCommand word p = some c := by
  obtain ⟨hop, hr, hd⟩ | ⟨hop, hr, hl, hd⟩ | ⟨hop, hr, hd⟩ | ⟨hop, hr, hd⟩ | ⟨hop, hr, hd⟩ | ⟨hop, hr, hd⟩ |
    ⟨hop, hr, hl, hd⟩ | ⟨h1, h2, h3, hd⟩ := decode_cases word data
  · exact .inl ⟨_, hd, by simp [checkCommand, hop, hr, phaseMisuse]⟩
  · have hlen : ¬64 < (lenField word).toNat := Nat.not_lt.2 ((lenLegal_iff _).1 hl)
    refine .inl ⟨_, hd, ?_⟩
    cases p <;> simp [checkCommand, hop, hr, hlen, phaseMisuse]
  · refine .inl ⟨_, hd, ?_⟩
    cases p <;> simp [checkCommand, hop, hr, phaseMisuse]
  · exact .inr ⟨_, hd, by simp_all [checkCommand]⟩
  · exact .inr ⟨_, hd, by simp_all [checkCommand]⟩
  · exact .inr ⟨_, hd, by simp_all [checkCommand]⟩
  · exact .inr ⟨_, hd, by simp [checkCommand, hop, hr, (lenLegal_eq_false_iff _).1 hl]⟩
  · exact .inr ⟨_, hd, by simp_all [checkCommand]⟩

/-- Outside FAULT a transfer whose checks name a cause takes that misuse. -/
theorem acceptCommand_of_check_some {word : CmdWord} (data : Word512) {s : State} {c : Misuse} (hs : s.phase ≠ .fault)
    (hc : checkCommand word s.phase = some c) : acceptCommand word data s = .next (raiseMisuse c s) := by
  obtain ⟨i, hd, hi⟩ | ⟨c', hd, hc'⟩ := checkCommand_eq word data s.phase
  · rw [acceptCommand_of_decode_ok s hd, exec_of_wellFormed (wellFormed_of_decode hd) hs, ← hi, hc, Option.elim]
  · cases hc.symm.trans hc'
    exact acceptCommand_of_decode_error hs hd

/-- Outside FAULT a transfer whose checks name no cause decodes and has its command's effect. -/
theorem acceptCommand_of_check_none {word : CmdWord} (data : Word512) {s : State} (hs : s.phase ≠ .fault)
    (hc : checkCommand word s.phase = none) :
    ∃ i, decode word data = .ok i ∧ acceptCommand word data s = .next (commandEffect i s) := by
  obtain ⟨i, hd, hi⟩ | ⟨c', -, hc'⟩ := checkCommand_eq word data s.phase
  · refine ⟨i, hd, ?_⟩
    rw [acceptCommand_of_decode_ok s hd, exec_of_wellFormed (wellFormed_of_decode hd) hs, ← hi, hc, Option.elim]
  · cases hc.symm.trans hc'

/-- Settles O31: the checks and the decoder agree, and the effect of the decoded command is the one of its OP. -/
theorem commandStepChecksThenRuns : Obligations.CommandStepChecksThenRuns := by
  intro word data s
  refine ⟨acceptCommand_of_fault word data, fun hs c hc => acceptCommand_of_check_some data hs hc, fun hs hc => ?_⟩
  obtain ⟨i, hd, ha⟩ := acceptCommand_of_check_none data hs hc
  rw [ha]
  cases i with
  | init w =>
    obtain ⟨hop, -, rfl⟩ := (decode_eq_init_iff word data w).1 hd
    rw [← opField, hop]
    exact ⟨fun _ => rfl, fun h => absurd h (by decide), fun h => absurd h (by decide), .inl rfl⟩
  | absorb len d =>
    obtain ⟨hop, -, -, rfl, rfl⟩ := (decode_eq_absorb_iff word data len d).1 hd
    rw [← opField, hop]
    exact ⟨fun h => absurd h (by decide), fun _ => rfl, fun h => absurd h (by decide), .inr (.inl rfl)⟩
  | finalize =>
    obtain ⟨hop, -⟩ := (decode_eq_finalize_iff word data).1 hd
    rw [← opField, hop]
    exact ⟨fun h => absurd h (by decide), fun h => absurd h (by decide), fun _ => rfl, .inr (.inr rfl)⟩

/-! ### The phases -/

/-- Outside FAULT the phase after ABSORB or FINALIZE is that of its column in the table of `42_context_commands.md` R94, `p` being
the phase after its effect in ACTIVE. -/
theorem exec_phases {i : Instr} {s t : State} {p : Phase} (hi : i.wellFormed = true) (hne : ∀ w, i ≠ .init w)
    (hp : s.phase = .active → (commandEffect i s).phase = p) (h : exec i s = .next t) :
    (s.phase = .idle → t.phase = .fault ∧ t.cause = 4) ∧ (s.phase = .active → t.phase = p) ∧
      (s.phase = .done → t.phase = .fault ∧ t.cause = 5) := by
  refine ⟨fun hs => ?_, fun hs => ?_, fun hs => ?_⟩
  · cases h.symm.trans (exec_of_idle hi hne hs)
    exact ⟨rfl, rfl⟩
  · cases h.symm.trans (exec_of_active hi hs)
    exact hp hs
  · cases h.symm.trans (exec_of_done hi hne hs)
    exact ⟨rfl, rfl⟩

/-- Settles O32: a rejected word takes its misuse, INIT opens a context, and ABSORB and FINALIZE follow their columns. -/
theorem phasesMoveAsTheTableSays : Obligations.PhasesMoveAsTheTableSays := by
  intro word data s
  obtain ⟨t, ht⟩ := acceptCommand_next word data s
  have hexec {i : Instr} (hd : decode word data = .ok i) : exec i s = .next t :=
    (acceptCommand_of_decode_ok s hd).symm.trans ht
  refine ⟨t, ht, fun hs => ?_, fun hs => ⟨fun c hd => ?_, fun w hd => ?_, fun len d hd => ?_, fun hd => ?_⟩⟩
  · cases ht.symm.trans (acceptCommand_of_fault word data hs)
    rfl
  · cases ht.symm.trans (acceptCommand_of_decode_error hs hd)
    exact ⟨rfl, rfl⟩
  · cases (hexec hd).symm.trans (exec_init_of_ne_fault w hs)
    exact ⟨rfl, rfl, rfl, rfl, rfl, rfl⟩
  · have hwf := wellFormed_of_decode hd
    refine exec_phases hwf (by simp) (fun hs => ?_) (hexec hd)
    obtain ⟨-, hphase, -⟩ := absorbBytes_frame len.toNat d s ((lenLegal_iff len).1 hwf)
    exact hphase.trans hs
  · exact exec_phases rfl (by simp) (fun _ => rfl) (hexec hd)

/-- Settles O35: the misuse is CONSUMED, and no digest is valid in FAULT. -/
theorem consumedContextRaisesConsumed : Obligations.ConsumedContextRaisesConsumed := fun _ _ hs hi hne =>
  ⟨_, exec_of_done hi hne hs, rfl, digest_of_not_dvalid rfl⟩

/-! ### INIT -/

/-- A second INIT with the same W finds what the first left. -/
theorem openContext_openContext (w : Bool) (s : State) : openContext w (openContext w s) = openContext w s := rfl

/-- No digest shows in an open context. -/
theorem digest_openContext (w : Bool) (s : State) : (openContext w s).digest = 0 := digest_of_not_dvalid rfl

/-- The bytes of the initial vector of a width (`10_state.md` R21). -/
theorem byte_openContext_h (w : Bool) (s : State) (j : Nat) (hj : j < 64) :
    byte (openContext w s).h j = if w then 0x01 else 0x00 := by
  cases w with
  | false => exact byte_zero j
  | true => exact byte_ofByteLanes _ j hj

/-- STATUS of an open context without a cause shows ACTIVE and the width alone. -/
theorem status_openContext (w : Bool) {s : State} (hc : s.cause = 0) (hb : s.busy = false) :
    (openContext w s).status = if w then 0x00000011 else 0x00000001 := by
  have hbusy : (openContext w s).busy = false := hb
  have hdvalid : (openContext w s).dvalid = false := rfl
  rw [status_of_not_busy hbusy, hbusy, hdvalid, openContext_cause, hc, openContext_fill, openContext_w256,
    openContext_phase]
  cases w <;> decide

/-- Settles O20: the effect outside FAULT with its outputs, the words of format I by the decoder. -/
theorem initOpensFreshContext : Obligations.InitOpensFreshContext := by
  refine ⟨fun w s hs => ?_, fun w s => exec_of_fault (.init w), fun word data s => ⟨fun hword => ?_, fun hop hres hs => ?_⟩⟩
  · have hagain : exec (.init w) (openContext w s) = .next (openContext w s) := by
      rw [exec_init_of_ne_fault w (by simp), openContext_openContext]
    exact ⟨openContext w s, exec_init_of_ne_fault w hs, rfl, byte_openContext_h w s, status_openContext w,
      digest_openContext w s, hagain⟩
  · obtain ⟨hop, hres⟩ := (and_maskI_eq_iff word).1 hword
    exact acceptCommand_of_decode_ok s ((decode_eq_init_iff word data _).2 ⟨hop, hres, rfl⟩)
  · exact acceptCommand_of_reserved data hs (.inl ⟨hop, hres⟩)

/-- INIT keeps the registers outside the context alone. -/
theorem openContext_congr (w : Bool) {s t : State} (hc : s.cause = t.cause) (hb : s.busyLeft = t.busyLeft)
    (hi : s.inputs = t.inputs) (hd : s.draws = t.draws) : openContext w s = openContext w t := by
  simp [openContext, hc, hb, hi, hd]

/-- Settles O21: the fresh context reads nothing of the old one. -/
theorem initAbandonsTheOldContext : Obligations.InitAbandonsTheOldContext := by
  intro w s t hs ht hc hb hi hd
  have hne {x : State} (hx : x.phase = .active ∨ x.phase = .done) : x.phase ≠ .fault := by
    obtain hx | hx := hx <;> simp [hx]
  refine ⟨?_, openContext w s, exec_init_of_ne_fault w (hne hs), digest_openContext w s, rfl⟩
  rw [exec_init_of_ne_fault w (hne hs), exec_init_of_ne_fault w (hne ht), openContext_congr w hc hb hi hd]

/-! ### ABSORB -/

theorem exec_absorb_of_active {len : BitVec 7} (data : Word512) {s : State} (hl : len.toNat ≤ 64)
    (hs : s.phase = .active) : exec (.absorb len data) s = .next (absorbBytes len.toNat data s) :=
  exec_of_active (i := .absorb len data) ((lenLegal_iff len).2 hl) hs

/-- An illegal LEN raises BAD_LENGTH outside FAULT. -/
theorem exec_absorb_of_badLength {len : BitVec 7} (data : Word512) {s : State} (hl : 64 < len.toNat)
    (hs : s.phase ≠ .fault) : exec (.absorb len data) s = .next (raiseMisuse .badLength s) := by
  rw [exec, execAbsorb, unlessFault_of_ne _ hs, (lenLegal_eq_false_iff len).2 hl]
  rfl

/-- The buffer of s completed with the first lanes of the data. -/
def completedBuffer (data : Word512) (s : State) : Vector Byte 64 :=
  writeBytes s.buf s.fill.toNat (64 - s.fill.toNat) (messageByte data)

theorem byte_completedBuffer (data : Word512) (s : State) (j : Nat) (hj : j < 64) :
    byte (fromBytes (completedBuffer data s)) j =
      if j < s.fill.toNat then s.buf[j] else byte data (j - s.fill.toNat) := by
  have hfill := s.fill.isLt
  rw [byte_fromBytes _ j hj, completedBuffer, writeBytes_getElem]
  by_cases h : j < s.fill.toNat
  · rw [if_pos h, if_neg (by omega)]
  · rw [if_neg h, if_pos (by omega), messageByte]

/-- A state with the buffer and its fill level given and every other register kept. -/
def State.withStaging (buf : Vector Byte 64) (fill : BitVec 6) (s : State) : State := { s with buf := buf, fill := fill }

section
variable (buf : Vector Byte 64) (fill : BitVec 6) (s : State)

@[simp] theorem State.withStaging_buf : (s.withStaging buf fill).buf = buf := rfl
@[simp] theorem State.withStaging_fill : (s.withStaging buf fill).fill = fill := rfl

/-- The later of two stagings stands. -/
@[simp] theorem State.withStaging_withStaging (buf' : Vector Byte 64) (fill' : BitVec 6) :
    (s.withStaging buf fill).withStaging buf' fill' = s.withStaging buf' fill' := rfl

/-- COMPRESS reads and writes neither the buffer nor its fill level. -/
theorem compress_withStaging (m : Word512) : compress m (s.withStaging buf fill) = (compress m s).withStaging buf fill := rfl

end

/-- A whole block on an empty buffer is compressed directly (`42_context_commands.md` R85). -/
theorem absorbBytes_direct (data : Word512) {s : State} (h : s.fill.toNat = 0) :
    absorbBytes 64 data s = compress data s := by
  rw [absorbBytes, if_pos ⟨h, rfl⟩, ofByteLanes_messageByte]

/-- Bytes that do not fill the buffer are staged. -/
theorem absorbBytes_append {len : Nat} (data : Word512) {s : State} (h : s.fill.toNat + len < 64) :
    absorbBytes len data s =
      s.withStaging (writeBytes s.buf s.fill.toNat len (messageByte data)) (BitVec.ofNat 6 (s.fill.toNat + len)) := by
  obtain ⟨_, _, _⟩ | ⟨-, e⟩ | ⟨_, _, _⟩ := absorbBytes_cases len data s (by omega)
  · omega
  · exact e
  · omega

/-- Bytes that complete a partly filled buffer compress it, and the bytes left over begin the next one. -/
theorem absorbBytes_flush {len : Nat} (data : Word512) {s : State} (hl : len ≤ 64) (hf : 0 < s.fill.toNat)
    (h : 64 ≤ s.fill.toNat + len) :
    absorbBytes len data s =
      (compress (fromBytes (completedBuffer data s)) s).withStaging
        (writeBytes (completedBuffer data s) 0 (s.fill.toNat + len - 64) fun j => messageByte data (64 - s.fill.toNat + j))
        (BitVec.ofNat 6 (s.fill.toNat + len - 64)) := by
  obtain ⟨_, _, _⟩ | ⟨_, _⟩ | ⟨-, -, e⟩ := absorbBytes_cases len data s hl
  · omega
  · omega
  · exact e

/-- A fill level below 64 is held as it is. -/
theorem toNat_fill_of_lt {k : Nat} (h : k < 64) : (BitVec.ofNat 6 k).toNat = k := by
  rw [BitVec.toNat_ofNat, Nat.mod_eq_of_lt h]

/-- Settles O22: the three paths of the effect, each check by its misuse, the words of format A by the decoder. -/
theorem absorbFeedsItsBytes : Obligations.AbsorbFeedsItsBytes := by
  refine ⟨fun len data s hs hl => ?_, fun len data s => ?_, fun word data s => ⟨fun hword hl => ?_, fun hop hres hs => ?_⟩⟩
  · have hfill := s.fill.isLt
    rw [exec_absorb_of_active data hl hs]
    refine ⟨fun ⟨hf, h⟩ => ?_, fun h => ?_, fun ⟨hf, h⟩ => ?_⟩
    · rw [h, absorbBytes_direct data hf]
      rfl
    · refine ⟨_, rfl, ?_⟩
      rw [absorbBytes_append data h]
      exact ⟨rfl, toNat_fill_of_lt h, writeBytes_getElem s.buf _ _ _⟩
    · refine ⟨_, fromBytes (completedBuffer data s), rfl, byte_completedBuffer data s, ?_⟩
      rw [absorbBytes_flush data hl hf h]
      refine ⟨rfl, toNat_fill_of_lt (by omega), fun j hj => ?_⟩
      rw [State.withStaging_buf, writeBytes_getElem, byte_fromBytes _ j hj]
      simp [messageByte]
  · have hlegal (h : len.toNat ≤ 64) : (Instr.absorb len data).wellFormed = true := (lenLegal_iff len).2 h
    exact ⟨exec_of_fault _, fun hs h => exec_absorb_of_badLength data h hs,
      fun hs h => exec_of_idle (hlegal h) nofun hs, fun hs h => exec_of_done (hlegal h) nofun hs⟩
  · obtain ⟨hop, hres⟩ := (and_maskA_eq_iff word).1 hword
    exact acceptCommand_of_decode_ok s ((decode_eq_absorb_iff word data _ data).2 ⟨hop, hres, hl, rfl, rfl⟩)
  · exact acceptCommand_of_reserved data hs (.inr (.inl ⟨hop, hres⟩))

/-! ### FINALIZE -/

theorem exec_finalize_of_active {s : State} (hs : s.phase = .active) :
    exec .finalize s = .next (finalizeContext s) :=
  exec_of_active (i := .finalize) rfl hs

/-- The bytes of the padded block. -/
theorem byte_paddedBlock (buf : Vector Byte 64) (f j : Nat) (hj : j < 64) :
    byte (fromBytes (padBuffer buf f)) j = if j < f then buf[j] else if j = f then 0x01 else 0x00 := by
  rw [byte_fromBytes _ j hj, padBuffer_getElem]

/-- The upper half, zero-extended, is the word shifted down by 256 bits (`40_word_adder.md` R57). -/
theorem setWidth_upperHalf (w : Word512) : (upperHalf w).setWidth 512 = w >>> 256 :=
  BitVec.eq_of_toNat_eq <| by
    rw [toNat_setWidth_upperHalf, BitVec.toNat_ushiftRight, Nat.shiftRight_eq_div_pow]

theorem dvalid_finalizeContext {s : State} (hb : s.busy = false) : (finalizeContext s).dvalid = true :=
  (dvalid_iff _).2 ⟨rfl, hb⟩

/-- The digest after FINALIZE is the chaining value, or its upper half (`42_context_commands.md` R92). -/
theorem digest_finalizeContext {s : State} (hb : s.busy = false) :
    (finalizeContext s).digest = if s.w256 then (finalizeContext s).h >>> 256 else (finalizeContext s).h := by
  have hv := dvalid_finalizeContext hb
  cases hw : s.w256 with
  | false => exact digest_of_dvalid_of_w512 hv hw
  | true => rw [digest_of_dvalid_of_w256 hv hw, setWidth_upperHalf, if_pos rfl]

/-- STATUS after FINALIZE without a cause shows DONE, DVALID and the width alone. -/
theorem status_finalizeContext {s : State} (hc : s.cause = 0) (hb : s.busy = false) :
    (finalizeContext s).status = if s.w256 then 0x0000001A else 0x0000000A := by
  have hbusy : (finalizeContext s).busy = false := hb
  rw [status_of_not_busy hbusy, hbusy, dvalid_finalizeContext hb, finalizeContext_cause, hc, finalizeContext_fill,
    finalizeContext_w256, finalizeContext_phase]
  cases s.w256 <;> decide

/-- Settles O26: the effect with its outputs, each check by its misuse, the word of format F by the decoder. -/
theorem finalizeFoldsLengthAndChecksum : Obligations.FinalizeFoldsLengthAndChecksum := by
  refine ⟨fun s hs => ?_, fun s => ?_, fun word data s => ⟨fun hword => ?_, fun hop hres hs => ?_⟩⟩
  · exact ⟨finalizeContext s, fromBytes (padBuffer s.buf s.fill.toNat), exec_finalize_of_active hs,
      byte_paddedBlock s.buf _, rfl, rfl, rfl, toBytes_fromBytes _, rfl,
      fun hb => ⟨dvalid_finalizeContext hb, digest_finalizeContext hb⟩, status_finalizeContext⟩
  · exact ⟨exec_of_fault _, exec_of_idle rfl nofun, exec_of_done rfl nofun⟩
  · subst hword
    exact acceptCommand_of_decode_ok s rfl
  · exact acceptCommand_of_reserved data hs (.inr (.inr ⟨hop, hres⟩))

/-! ### Runs of commands -/

theorem runCommands_cons {i : Instr} {s t : State} (rest : List Instr) (h : exec i s = .next t) :
    runCommands (i :: rest) s = runCommands rest t := by
  rw [runCommands, h]

theorem runCommands_append {cs : List Instr} {s t : State} (ds : List Instr) (h : runCommands cs s = .next t) :
    runCommands (cs ++ ds) s = runCommands ds t := by
  induction cs generalizing s with
  | nil =>
    cases h
    rfl
  | cons i rest ih =>
    obtain ⟨v, hv⟩ := exec_next i s
    rw [runCommands_cons _ hv] at h
    rw [List.cons_append, runCommands_cons _ hv, ih h]

/-- A command among which a message may be split is an ABSORB with LEN at most 64. -/
theorem isLegalAbsorb_iff (i : Instr) :
    isLegalAbsorb i = true ↔ ∃ len data, i = .absorb len data ∧ len.toNat ≤ 64 := by
  cases i <;> simp [isLegalAbsorb, lenLegal]

/-! ### Blocks of a byte stream -/

/-- COMPRESS over the first k whole blocks of a byte stream, in order. -/
def compressBlocks (bytes : List Byte) : Nat → State → State
  | 0, s => s
  | k + 1, s => compress (messageBlock bytes k) (compressBlocks bytes k s)

/-- A whole block does not change when bytes are put behind it. -/
theorem messageBlock_append {bytes : List Byte} {k : Nat} (more : List Byte) (h : 64 * (k + 1) ≤ bytes.length) :
    messageBlock (bytes ++ more) k = messageBlock bytes k :=
  ofByteLanes_congr fun _ _ => List.getD_append _ _ _ _ (by omega)

theorem compressBlocks_append {bytes : List Byte} {k : Nat} (more : List Byte) (s : State) (h : 64 * k ≤ bytes.length) :
    compressBlocks (bytes ++ more) k s = compressBlocks bytes k s := by
  induction k with
  | zero => rfl
  | succ k ih => rw [compressBlocks, compressBlocks, ih (by omega), messageBlock_append more h]

/-- N grows by 512 a block (`42_context_commands.md` R98). -/
theorem compressBlocks_n (bytes : List Byte) (k : Nat) (s : State) :
    (compressBlocks bytes k s).n = s.n + BitVec.ofNat 512 (512 * k) := by
  induction k with
  | zero => exact (BitVec.add_zero s.n).symm
  | succ k ih => rw [compressBlocks, compress_n, ih, add512, BitVec.add_assoc, Nat.mul_succ, BitVec.ofNat_add]; rfl

/-- Sigma grows by each block (`42_context_commands.md` R99). -/
theorem compressBlocks_sigma (bytes : List Byte) (k : Nat) (s : State) :
    (compressBlocks bytes k s).sigma = s.sigma + sumBlocks bytes k := by
  induction k with
  | zero => exact (BitVec.add_zero s.sigma).symm
  | succ k ih => rw [compressBlocks, compress_sigma, ih, add512, BitVec.add_assoc, sumBlocks]

theorem compressBlocks_phase (bytes : List Byte) (k : Nat) (s : State) : (compressBlocks bytes k s).phase = s.phase := by
  induction k with
  | zero => rfl
  | succ k ih => rw [compressBlocks, compress_phase, ih]

/-- The sum of the blocks as a number. -/
theorem toNat_sumBlocks (bytes : List Byte) (k : Nat) :
    (sumBlocks bytes k).toNat = (∑ i ∈ Finset.range k, (messageBlock bytes i).toNat) % 2 ^ 512 := by
  induction k with
  | zero => rw [Finset.sum_range_zero, Nat.zero_mod, sumBlocks]; exact BitVec.toNat_zero
  | succ k ih => rw [sumBlocks, ← add512, toNat_add512, ih, Finset.sum_range_succ, Nat.mod_add_mod]

/-- A message byte of an ABSORB, by its place in the stream it is put behind. -/
theorem getD_append_messageBytes (bytes : List Byte) (len : BitVec 7) (data : Word512) {i : Nat}
    (hlo : bytes.length ≤ i) (hhi : i < bytes.length + len.toNat) :
    (bytes ++ messageBytes len data).getD i 0 = byte data (i - bytes.length) := by
  rw [List.getD_append_right _ _ _ _ hlo, List.getD_eq_getElem?_getD, messageBytes_getElem? data (by omega), Option.getD]

/-! ### The state after a byte stream

What an open context holds depends on the bytes taken so far alone: the whole blocks are compressed and the rest is staged
(`42_context_commands.md` R97). -/

/-- The core reached t from s by taking `bytes`, counted from the start of the block that s had staged. -/
structure Absorbed (s : State) (bytes : List Byte) (t : State) : Prop where
  registers : t.withStaging s.buf s.fill = compressBlocks bytes (bytes.length / 64) s
  fill : t.fill.toNat = bytes.length % 64
  staged : ∀ j (hj : j < 64), j < bytes.length % 64 → t.buf[j] = bytes.getD (64 * (bytes.length / 64) + j) 0

/-- The valid bytes of the buffer. -/
def stagedBytes (s : State) : List Byte := s.buf.toList.take s.fill.toNat

theorem absorbed_stagedBytes (s : State) : Absorbed s (stagedBytes s) s := by
  have hfill := s.fill.isLt
  have hlen : (stagedBytes s).length = s.fill.toNat := by
    rw [stagedBytes, List.length_take, Vector.length_toList]
    omega
  have hquot : (stagedBytes s).length / 64 = 0 := by omega
  have hrem : (stagedBytes s).length % 64 = s.fill.toNat := by omega
  refine ⟨by rw [hquot]; rfl, hrem.symm, fun j hj h => ?_⟩
  rw [hquot]
  simp [stagedBytes, hj, show j < s.fill.toNat by omega]

section
variable {s t : State} {bytes : List Byte} (h : Absorbed s bytes t)
include h

theorem Absorbed.phase : t.phase = s.phase :=
  (congrArg State.phase h.registers).trans (compressBlocks_phase ..)

theorem Absorbed.n : t.n = s.n + BitVec.ofNat 512 (512 * (bytes.length / 64)) :=
  (congrArg State.n h.registers).trans (compressBlocks_n ..)

theorem Absorbed.sigma : t.sigma = s.sigma + sumBlocks bytes (bytes.length / 64) :=
  (congrArg State.sigma h.registers).trans (compressBlocks_sigma ..)

/-- The block that more bytes complete. -/
theorem Absorbed.nextBlock {len : BitVec 7} (data : Word512) (hl : 64 ≤ t.fill.toNat + len.toNat) :
    messageBlock (bytes ++ messageBytes len data) (bytes.length / 64) = fromBytes (completedBuffer data t) := by
  have hfill := h.fill
  refine eq_of_bytes fun j hj => ?_
  rw [byte_completedBuffer data t j hj, messageBlock, byte_ofByteLanes _ j hj]
  by_cases hlow : j < t.fill.toNat
  · rw [if_pos hlow, h.staged j hj (hfill ▸ hlow), List.getD_append _ _ _ _ (by omega)]
  · rw [if_neg hlow, getD_append_messageBytes bytes len data (by omega) (by omega)]
    exact congrArg (byte data) (by omega)

/-- The padded block is the last, incomplete block of the stream with the marker behind it (`42_context_commands.md` R90). -/
theorem Absorbed.paddedBlock :
    fromBytes (padBuffer t.buf t.fill.toNat) = messageBlock (bytes ++ [0x01]) (bytes.length / 64) := by
  have hfill := h.fill
  refine eq_of_bytes fun j hj => ?_
  rw [byte_paddedBlock _ _ j hj, messageBlock, byte_ofByteLanes _ j hj]
  by_cases hlow : j < t.fill.toNat
  · rw [if_pos hlow, h.staged j hj (hfill ▸ hlow), List.getD_append _ _ _ _ (by omega)]
  · rw [if_neg hlow, List.getD_append_right _ _ _ _ (by omega)]
    by_cases hmark : j = t.fill.toNat
    · rw [if_pos hmark, show 64 * (bytes.length / 64) + j - bytes.length = 0 by omega]
      rfl
    · rw [if_neg hmark, List.getD_eq_default _ _ (by rw [List.length_singleton]; omega)]

/-- A whole block taken on an empty buffer is the next block of the stream. -/
theorem Absorbed.direct (data : Word512) (hf : t.fill.toNat = 0) :
    Absorbed s (bytes ++ messageBytes 64 data) (compress data t) := by
  have hfill := h.fill
  have hlen : (bytes ++ messageBytes 64 data).length = bytes.length + 64 := by simp
  have hquot : (bytes ++ messageBytes 64 data).length / 64 = bytes.length / 64 + 1 := by omega
  have hblock : messageBlock (bytes ++ messageBytes 64 data) (bytes.length / 64) = data := by
    rw [h.nextBlock data (Nat.le_add_left ..)]
    exact eq_of_bytes fun j hj => by
      rw [byte_completedBuffer data t j hj, hf, if_neg (Nat.not_lt_zero j), Nat.sub_zero]
  refine ⟨?_, by rw [compress_fill]; omega, fun j _ hlow => by omega⟩
  rw [hquot, compressBlocks, compressBlocks_append _ s (by omega), hblock, ← h.registers, compress_withStaging]

/-- Bytes that do not fill the buffer are staged behind those staged before. -/
theorem Absorbed.append {len : BitVec 7} (data : Word512) (hroom : t.fill.toNat + len.toNat < 64) :
    Absorbed s (bytes ++ messageBytes len data) (absorbBytes len.toNat data t) := by
  have hfill := h.fill
  have hlen : (bytes ++ messageBytes len data).length = bytes.length + len.toNat := by simp
  have hquot : (bytes ++ messageBytes len data).length / 64 = bytes.length / 64 := by omega
  rw [absorbBytes_append data hroom]
  refine ⟨?_, ?_, fun j hj hlow => ?_⟩
  · rw [hquot, compressBlocks_append _ s (by omega), State.withStaging_withStaging, h.registers]
  · rw [State.withStaging_fill, toNat_fill_of_lt hroom]
    omega
  · rw [hquot, State.withStaging_buf, writeBytes_getElem]
    by_cases hold : j < t.fill.toNat
    · rw [if_neg (by omega), h.staged j hj (hfill ▸ hold), List.getD_append _ _ _ _ (by omega)]
    · rw [if_pos (by omega), getD_append_messageBytes bytes len data (by omega) (by omega), messageByte]
      exact congrArg (byte data) (by omega)

/-- Bytes that complete the buffer give the next block, and the bytes left over are staged. -/
theorem Absorbed.flush {len : BitVec 7} (data : Word512) (hl : len.toNat ≤ 64) (hf : 0 < t.fill.toNat)
    (hfull : 64 ≤ t.fill.toNat + len.toNat) :
    Absorbed s (bytes ++ messageBytes len data) (absorbBytes len.toNat data t) := by
  have hfill := h.fill
  have hlen : (bytes ++ messageBytes len data).length = bytes.length + len.toNat := by simp
  have hquot : (bytes ++ messageBytes len data).length / 64 = bytes.length / 64 + 1 := by omega
  rw [absorbBytes_flush data hl hf hfull]
  refine ⟨?_, ?_, fun j hj hlow => ?_⟩
  · rw [hquot, compressBlocks, compressBlocks_append _ s (by omega), h.nextBlock data hfull, ← h.registers,
      compress_withStaging, State.withStaging_withStaging]
  · rw [State.withStaging_fill, toNat_fill_of_lt (by omega)]
    omega
  · rw [hquot, State.withStaging_buf, writeBytes_getElem, if_pos (by omega),
      getD_append_messageBytes bytes len data (by omega) (by omega), messageByte]
    exact congrArg (byte data) (by omega)

/-- Taking the bytes of an ABSORB puts them behind the bytes taken before (`42_context_commands.md` R85). -/
theorem Absorbed.absorbBytes {len : BitVec 7} (data : Word512) (hl : len.toNat ≤ 64) :
    Absorbed s (bytes ++ messageBytes len data) (absorbBytes len.toNat data t) := by
  obtain ⟨hf, hwhole, e⟩ | ⟨hroom, -⟩ | ⟨hf, hfull, -⟩ := absorbBytes_cases len.toNat data t hl
  · obtain rfl : len = 64 := BitVec.eq_of_toNat_eq hwhole
    exact e ▸ h.direct data hf
  · exact h.append data hroom
  · exact h.flush data hl hf hfull

/-- Legal ABSORBs in an open context take the message they carry. -/
theorem Absorbed.runCommands {cs : List Instr} (hs : s.phase = .active) (hcs : ∀ i ∈ cs, isLegalAbsorb i = true) :
    ∃ u, runCommands cs t = .next u ∧ Absorbed s (bytes ++ message cs) u := by
  induction cs generalizing bytes t with
  | nil => exact ⟨t, rfl, by rwa [message, List.append_nil]⟩
  | cons i rest ih =>
    obtain ⟨hi, hrest⟩ := List.forall_mem_cons.1 hcs
    obtain ⟨len, data, rfl, hl⟩ := (isLegalAbsorb_iff i).1 hi
    obtain ⟨u, hrun, hu⟩ := ih (h.absorbBytes data hl) hrest
    refine ⟨u, ?_, by rwa [message, ← List.append_assoc]⟩
    rw [runCommands_cons rest (exec_absorb_of_active data hl (h.phase.trans hs)), hrun]

/-- Two contexts that took the same bytes are equal but for the buffer's tail. -/
theorem Absorbed.sameButTail {u : State} (h' : Absorbed s bytes u) : SameButTail t u := by
  have hfill : t.fill = u.fill := BitVec.eq_of_toNat_eq (h.fill.trans h'.fill.symm)
  refine ⟨?_, fun j hj => ?_⟩
  · have hsame := congrArg (State.withStaging u.buf u.fill) (h.registers.trans h'.registers.symm)
    rw [State.withStaging_withStaging, State.withStaging_withStaging, ← hfill] at hsame
    exact hsame.trans (hfill ▸ rfl)
  · have hlow : j.val < bytes.length % 64 := h.fill ▸ hj
    exact (h.staged j j.isLt hlow).trans (h'.staged j j.isLt hlow).symm

end

/-- The valid bytes fix the padded block. -/
theorem padBuffer_congr {a b : Vector Byte 64} {f : Nat} (h : ∀ j (hj : j < 64), j < f → a[j] = b[j]) :
    padBuffer a f = padBuffer b f := by
  refine Vector.ext fun j hj => ?_
  rw [padBuffer_getElem a f j hj, padBuffer_getElem b f j hj]
  split
  next hlow => exact h j hj hlow
  next => rfl

/-- FINALIZE does not read the buffer's tail, and overwrites it (`10_state.md` R13). -/
theorem finalizeContext_eq_of_sameButTail {t u : State} (h : SameButTail t u) :
    finalizeContext t = finalizeContext u := by
  obtain ⟨hu, hvalid⟩ := h
  have hpad : padBuffer t.buf t.fill.toNat = padBuffer u.buf t.fill.toNat :=
    padBuffer_congr fun j hj => hvalid ⟨j, hj⟩
  rw [← hu]
  simp only [finalizeContext, hpad]

/-- Settles O49: both sequences take the same bytes, and FINALIZE gives the same state after both. -/
theorem chunkingDoesNotMatter : Obligations.ChunkingDoesNotMatter := by
  intro cs ds s hs hcs hds hmessage
  obtain ⟨t, hrunt, ht⟩ := (absorbed_stagedBytes s).runCommands hs hcs
  obtain ⟨u, hrunu, hu⟩ := (absorbed_stagedBytes s).runCommands hs hds
  have hsame : SameButTail t u := ht.sameButTail (hmessage ▸ hu)
  have hfinal := finalizeContext_eq_of_sameButTail hsame
  exact ⟨t, u, hrunt, hrunu, hsame, finalizeContext t, finalizeContext u,
    exec_finalize_of_active (ht.phase.trans hs), exec_finalize_of_active (hu.phase.trans hs),
    congrArg State.digest hfinal, congrArg State.digestBytes hfinal⟩

/-! ### Messages from INIT -/

/-- Outside FAULT, INIT and legal ABSORBs take the message into a fresh context, which FINALIZE then ends. -/
theorem runCommands_init_absorbs (w : Bool) {cs : List Instr} {s : State} (hs : s.phase ≠ .fault)
    (hcs : ∀ i ∈ cs, isLegalAbsorb i = true) :
    ∃ t, runCommands (.init w :: cs) s = .next t ∧ Absorbed (openContext w s) (message cs) t ∧
      exec .finalize t = .next (finalizeContext t) := by
  have hfresh : Absorbed (openContext w s) [] (openContext w s) := absorbed_stagedBytes (openContext w s)
  obtain ⟨t, hrun, ht⟩ := hfresh.runCommands rfl hcs
  exact ⟨t, by rw [runCommands_cons cs (exec_init_of_ne_fault w hs), hrun], ht, exec_finalize_of_active ht.phase⟩

section
variable {w : Bool} {s t : State} {bytes : List Byte} (h : Absorbed (openContext w s) bytes t)
include h

/-- From a fresh context N is 512 for every whole block (`42_context_commands.md` R98). -/
theorem Absorbed.n_of_fresh : t.n = BitVec.ofNat 512 (512 * (bytes.length / 64)) := h.n.trans (BitVec.zero_add _)

/-- After FINALIZE N is 8 for every byte (`42_context_commands.md` R98). -/
theorem Absorbed.finalizeContext_n_of_fresh : (finalizeContext t).n = BitVec.ofNat 512 (8 * bytes.length) := by
  have hbits : 512 * (bytes.length / 64) + 8 * t.fill.toNat = 8 * bytes.length := by
    have := h.fill
    omega
  rw [finalizeContext_n, add512, h.n_of_fresh, bitLength, ← BitVec.ofNat_add, hbits]

/-- From a fresh context Sigma is the sum of the whole blocks (`42_context_commands.md` R99). -/
theorem Absorbed.sigma_of_fresh : t.sigma = sumBlocks bytes (bytes.length / 64) := h.sigma.trans (BitVec.zero_add _)

end

/-- FINALIZE adds the padded block to Sigma. -/
theorem finalizeContext_sigma (t : State) :
    (finalizeContext t).sigma = add512 t.sigma (fromBytes (padBuffer t.buf t.fill.toNat)) := rfl

theorem toNat_ofNat_512 (n : Nat) : (BitVec.ofNat 512 n).toNat = n % 2 ^ 512 := by
  -- for every width, so that 2^512 is never evaluated
  have hofNat (w : Nat) : (BitVec.ofNat w n).toNat = n % 2 ^ w := BitVec.toNat_ofNat n w
  exact hofNat 512

/-- Settles O50: N counts the whole blocks taken, and FINALIZE adds the bits of the rest. -/
theorem counterCountsTheMessageBits : Obligations.CounterCountsTheMessageBits := by
  intro w cs s hs hcs
  obtain ⟨t, hrun, ht, hfinal⟩ := runCommands_init_absorbs w hs hcs
  have hbits : 512 * ((message cs).length / 64) = 8 * ((message cs).length - (message cs).length % 64) := by omega
  have hn : t.n.toNat = 512 * ((message cs).length / 64) % 2 ^ 512 := by rw [ht.n_of_fresh, toNat_ofNat_512]
  refine ⟨t, finalizeContext t, hrun, hfinal, hn, hbits ▸ hn, ht.fill, ?_⟩
  rw [ht.finalizeContext_n_of_fresh, toNat_ofNat_512]

/-- Settles O51: Sigma is the sum of the whole blocks taken, and FINALIZE adds the padded block. -/
theorem checksumSumsTheBlocks : Obligations.ChecksumSumsTheBlocks := by
  intro w cs s hs hcs
  obtain ⟨t, hrun, ht, hfinal⟩ := runCommands_init_absorbs w hs hcs
  refine ⟨t, finalizeContext t, hrun, hfinal, ?_, ?_⟩
  · rw [ht.sigma_of_fresh, toNat_sumBlocks]
  · rw [finalizeContext_sigma, toNat_add512, ht.paddedBlock, ht.sigma_of_fresh, toNat_sumBlocks, Nat.mod_add_mod]

/-! ### The empty message -/

theorem message_of_absorb_zero {cs : List Instr} (hcs : ∀ i ∈ cs, ∃ data, i = .absorb 0 data) : message cs = [] := by
  induction cs with
  | nil => rfl
  | cons i rest ih =>
    obtain ⟨⟨data, rfl⟩, hrest⟩ := List.forall_mem_cons.1 hcs
    rw [message, ih hrest]
    rfl

/-- The padded block of the empty message is the marker alone. -/
theorem messageBlock_marker : messageBlock ([] ++ [0x01]) 0 = 1 := by decide +kernel

/-- FINALIZE's chaining value as three folds. -/
theorem finalizeContext_h (t : State) :
    (finalizeContext t).h =
      g (g (g t.h t.n (fromBytes (padBuffer t.buf t.fill.toNat))) 0 (finalizeContext t).n) 0 (finalizeContext t).sigma := rfl

/-- Settles O27: the ABSORB 0 take no byte, so FINALIZE folds the block of the marker alone, no length and that block. -/
theorem emptyMessageHasItsFixedDigest : Obligations.EmptyMessageHasItsFixedDigest := by
  intro w cs s hs hcs
  have hlegal : ∀ i ∈ cs, isLegalAbsorb i = true := fun i hi => by
    obtain ⟨data, rfl⟩ := hcs i hi
    rfl
  obtain ⟨t, hrun, ht, hfinal⟩ := runCommands_init_absorbs w hs hlegal
  rw [message_of_absorb_zero hcs] at ht
  have hh : t.h = if w then iv256 else 0 := congrArg State.h ht.registers
  have hn : t.n = 0 := ht.n_of_fresh
  have hsigma : t.sigma = 0 := ht.sigma_of_fresh
  have hblock : fromBytes (padBuffer t.buf t.fill.toNat) = 1 := ht.paddedBlock.trans messageBlock_marker
  have hn' : (finalizeContext t).n = 0 := ht.finalizeContext_n_of_fresh
  have hsigma' : (finalizeContext t).sigma = 1 := by rw [finalizeContext_sigma, hblock, hsigma]; exact BitVec.zero_add 1
  refine ⟨finalizeContext t, ?_, ?_, hn', hsigma'⟩
  · rw [← List.cons_append, runCommands_append [.finalize] hrun, runCommands_cons [] hfinal, runCommands]
  · rw [finalizeContext_h, hh, hn, hblock, hn', hsigma']

end Sys2Proof.Machine
end

section
/-! PROOFS. The rules of `60_exceptions.md`: the fault step (O33), and FAULT as the phase that reset alone leaves (O34). -/

namespace Sys2Proof.Machine

/-! ### The outputs in FAULT -/

/-- No digest is valid in FAULT (`60_exceptions.md` R110). -/
theorem dvalid_of_fault {s : State} (hs : s.phase = .fault) : s.dvalid = false := by
  rw [State.dvalid, hs]
  rfl

theorem digest_of_fault {s : State} (hs : s.phase = .fault) : s.digest = 0 := digest_of_not_dvalid (dvalid_of_fault hs)

/-- STATUS in FAULT once BUSY has fallen: PHASE = 3, no valid digest, and the cause, fill and width in the registers. -/
theorem status_of_fault {s : State} (hs : s.phase = .fault) (hb : s.busy = false) :
    s.status = statusWord s.cause s.fill s.w256 false false 3 := by
  rw [status_of_not_busy hb, dvalid_of_fault hs, hb, hs, phaseCode]

/-! ### The fault step -/

/-- The codes of the misuses are 1 to 5 (`60_exceptions.md` R106). -/
theorem misuseCode_bounds (c : Misuse) : 1 ≤ c.code.toNat ∧ c.code.toNat ≤ 5 := by
  cases c <;> decide

/-- The effect of a well-formed command never leads to FAULT; only a misuse does. -/
theorem commandEffect_phase_ne_fault {i : Instr} {s : State} (hi : i.wellFormed = true) (hs : s.phase ≠ .fault) :
    (commandEffect i s).phase ≠ .fault := by
  cases i with
  | init w => simp [commandEffect]
  | absorb len data =>
    obtain ⟨-, hphase, -⟩ := absorbBytes_frame len.toNat data s ((lenLegal_iff len).1 hi)
    exact fun h => hs (hphase.symm.trans h)
  | finalize => simp [commandEffect]

/-- A transfer that enters FAULT takes a misuse: the fault step is all it does (`60_exceptions.md` R110). -/
theorem eq_raiseMisuse_of_enters_fault {word : CmdWord} {data : Word512} {s t : State} (hs : s.phase ≠ .fault)
    (h : acceptCommand word data s = .next t) (ht : t.phase = .fault) : ∃ c, t = raiseMisuse c s := by
  cases hc : checkCommand word s.phase with
  | some c => exact ⟨c, Host.Outcome.next.inj (h.symm.trans (acceptCommand_of_check_some data hs hc))⟩
  | none =>
    obtain ⟨i, hd, he⟩ := acceptCommand_of_check_none data hs hc
    cases h.symm.trans he
    exact absurd ht (commandEffect_phase_ne_fault (wellFormed_of_decode hd) hs)

/-- Settles O33: the state entered is that of the fault step, and its outputs are those of FAULT. -/
theorem faultStepIsPrecise : Obligations.FaultStepIsPrecise := by
  intro word data s t hs h ht
  obtain ⟨c, rfl⟩ := eq_raiseMisuse_of_enters_fault hs h ht
  obtain ⟨hlow, hhigh⟩ := misuseCode_bounds c
  refine ⟨rfl, hlow, hhigh, digest_of_fault ht, fun hb => ?_⟩
  rw [status_of_fault ht hb]
  exact ⟨statusWord_phase .., statusWord_dvalid .., statusWord_w256 .., statusWord_fill .., statusWord_cause ..⟩

/-! ### Leaving FAULT -/

/-- In FAULT a command waits for BUSY to fall and is then ignored (`60_exceptions.md` R111; `70_reset_and_hazards.md` R127). -/
theorem takeInput_command_of_fault (word : CmdWord) (data : Word512) {s : State} (hs : s.phase = .fault) :
    takeInput (.command word data) s = .next (awaitReady s) :=
  acceptCommand_of_fault word data (s := awaitReady s) hs

/-- In FAULT any commands change nothing but BUSY, which falls before the first of them. -/
theorem takeInputs_commands_of_fault (cmds : List (CmdWord × Word512)) {s : State} (hs : s.phase = .fault) :
    takeInputs (cmds.map fun c => .command c.1 c.2) s = .next (if cmds = [] then s else awaitReady s) := by
  induction cmds generalizing s with
  | nil => rfl
  | cons c rest ih =>
    have hready : awaitReady (awaitReady s) = awaitReady s := rfl
    rw [List.map_cons, takeInputs_cons _ (takeInput_command_of_fault c.1 c.2 hs), ih (s := awaitReady s) hs, hready,
      ite_self, if_neg (List.cons_ne_nil c rest)]

/-- Settles O34: commands are ignored, reset gives the reset values, and the outputs are those of FAULT. -/
theorem faultIsLeftByResetAlone : Obligations.FaultIsLeftByResetAlone := by
  intro s hs
  refine ⟨fun cmds => takeInputs_commands_of_fault cmds hs, ⟨takeReset s, rfl, rfl⟩, digest_of_fault hs,
    fun hc hf hw hb => ?_⟩
  rw [status_of_fault hs hb, hc, hf, hw]
  rfl

end Sys2Proof.Machine
end

section
/-! PROOFS. The rules of `70_reset_and_hazards.md`: the fall of BUSY (O54), the reset values (O40) and the reset of a running core
(O41). -/

namespace Sys2Proof.Machine

/-! ### The fall of BUSY -/

/-- An edge without reset, with no reset pulse in progress, is never refused: the run goes on from the state the edge gives. -/
theorem clockRun_cons_of_next {p : Pins} {s t : State} (ps : List Pins) (hr : p.rst = false)
    (h : clockEdge p s = .next t) : clockRun 0 (p :: ps) s = clockRun 0 ps t := by
  simp [clockRun, pulseTooShort, heldAfter, hr, h]

theorem takenInputs_cons_of_next {p : Pins} {s t : State} (ps : List Pins) (h : clockEdge p s = .next t) :
    takenInputs (p :: ps) s = edgeInput p s ++ takenInputs ps t := by
  rw [takenInputs, h]

/-- Settles O54, by induction on the edges: each one waits, takes nothing and leaves BUSY one cycle less. -/
theorem busyFallsAfterItsCycles : Obligations.BusyFallsAfterItsCycles := by
  intro ps
  induction ps with
  | nil => exact fun s _ hlen => ⟨s, rfl, by simp [State.busy, ← hlen], rfl, rfl⟩
  | cons p ps ih =>
    intro s hrst hlen
    obtain ⟨hp, hps⟩ := List.forall_mem_cons.1 hrst
    have hb : s.busy = true := (busy_iff s).2 (by rw [← hlen]; exact Nat.succ_ne_zero _)
    obtain ⟨hedge, hnone⟩ := clockEdge_of_busy hp hb
    have hleft : ps.length = (tickBusy s).busyLeft :=
      Nat.succ.inj (hlen.trans (busyLeft_tickBusy_succ hb).symm)
    obtain ⟨t, hrun, hfallen, hsettled, htaken⟩ := ih (tickBusy s) hps hleft
    refine ⟨t, (clockRun_cons_of_next ps hp hedge).trans hrun, hfallen, hsettled.trans (settled_tickBusy s), ?_⟩
    rw [takenInputs_cons_of_next ps hedge, hnone, htaken, List.append_nil]

/-! ### The reset values -/

/-- The outputs after reset (`70_reset_and_hazards.md` R122). -/
theorem outputs_reset : State.reset.outputs = { cmdReady := true, status := 0, digest := 0 } := by
  have hstatus : State.reset.status = 0 := (status_of_not_busy rfl).trans (by decide)
  have hdigest : State.reset.digest = 0 := digest_of_not_dvalid rfl
  rw [State.outputs, hstatus, hdigest]
  rfl

/-- After reset the context registers are those of INIT in 512-bit mode, so that INIT opens the context alone
(`70_reset_and_hazards.md` R122). -/
theorem openContext_reset : openContext false .reset = { State.reset with phase := .active } := rfl

/-- Settles O40: the registers by the table, the ports by `outputs_reset`, and INIT by `openContext_reset`. -/
theorem resetLeavesTheTableValues : Obligations.ResetLeavesTheTableValues := by
  have hbuf (j : Nat) (hj : j < 64) : State.reset.buf[j] = 0 := Vector.getElem_replicate hj
  have hinit : exec (.init false) .reset = .next { State.reset with phase := .active } :=
    openContext_reset ▸ exec_init_of_ne_fault false (by decide)
  exact ⟨rfl, rfl, rfl, hbuf, rfl, rfl, rfl, rfl, rfl, congrArg Outputs.status outputs_reset,
    congrArg Outputs.digest outputs_reset, rfl, hinit⟩

/-! ### The reset of a running core -/

/-- Reset forgets every register, BUSY and its counter included (`70_reset_and_hazards.md` R121, R123). -/
@[simp] theorem settled_takeReset (s : State) : (takeReset s).settled = State.reset := rfl

/-- The outputs after a reset do not depend on the state it was taken in. -/
theorem outputs_takeReset (s : State) : (takeReset s).outputs = State.reset.outputs :=
  outputs_of_settled (t := .reset) (settled_takeReset s) rfl rfl

/-- A pending reset is the step's, and takes itself alone from the queue. -/
theorem step_of_reset {s : State} {rest : List HostInput} (h : s.inputs = .reset :: rest) :
    step s = .next (takeReset { s with inputs := rest }) := by
  obtain ⟨hnil, -⟩ | ⟨i, rest', hi, hstep⟩ := step_cases s
  · cases h.symm.trans hnil
  · cases h.symm.trans hi
    exact hstep

/-- An edge with `rst` = 1 resets, whatever else the host drives and whether or not BUSY is 1 (`60_exceptions.md` R109). -/
theorem clockEdge_of_reset {p : Pins} (s : State) (hr : p.rst = true) :
    clockEdge p s = .next (takeReset s) ∧ edgeInput p s = [.reset] := by
  simpa [hr] using clockEdge_cases p s

/-- Settles O41: as a step, as an edge, and as an edge after one that may have accepted a command. -/
theorem resetAbortsAndRestores : Obligations.ResetAbortsAndRestores := by
  refine ⟨fun s rest hin => ⟨_, step_of_reset hin, settled_takeReset _, rfl⟩, fun p s hr => ?_,
    fun p q s t _ _ hq => ?_⟩
  · obtain ⟨hedge, htakes⟩ := clockEdge_of_reset s hr
    exact ⟨_, hedge, settled_takeReset s, rfl, htakes⟩
  · exact ⟨_, _, (clockEdge_of_reset t hq).1, (clockEdge_of_reset s hq).1, rfl,
      (outputs_takeReset t).trans (outputs_takeReset s).symm⟩

end Sys2Proof.Machine
end

section
/-! PROOFS. More rules of `30_encoding.md`: the decoder and the encoder are inverse (O1, O2), the printed words (O5) and the
pseudo-command ABSORBN (O7). -/

namespace Sys2Proof.Machine

/-! ### The fields of an encoded command -/

/-- The fields of format I (`30_encoding.md` R47). -/
theorem fields_encodeWord_init (w : Bool) :
    opField (encodeWord (.init w)) = 1 ∧ reservedI (encodeWord (.init w)) = 0 ∧ wField (encodeWord (.init w)) = w := by
  cases w <;> decide

/-- The fields of format A (`30_encoding.md` R48): LEN lies between OP and the reserved bits. -/
theorem fields_encodeWord_absorb (len : BitVec 7) (data : Word512) :
    opField (encodeWord (.absorb len data)) = 2 ∧ reservedA (encodeWord (.absorb len data)) = 0 ∧
      lenField (encodeWord (.absorb len data)) = len := by
  simp [encodeWord, opField, reservedA, lenField, BitVec.extractLsb'_or, extractLsb'_placed, extractLsb'_placed_disjoint]

/-- The fields of format F (`30_encoding.md` R49). -/
theorem fields_encodeWord_finalize : opField (encodeWord .finalize) = 3 ∧ reservedF (encodeWord .finalize) = 0 := by
  decide

/-! ### Decoding and encoding -/

/-- Settles O1: the fields of the encoded word meet the decoder's condition for its command. -/
theorem decodeInvertsEncode : Obligations.DecodeInvertsEncode := by
  intro i hi
  cases i with
  | init w => exact (decode_eq_init_iff ..).2 (fields_encodeWord_init w)
  | absorb len data =>
    obtain ⟨hop, hres, hlen⟩ := fields_encodeWord_absorb len data
    have hlegal : (lenField (encodeWord (.absorb len data))).toNat ≤ 64 := hlen.symm ▸ (lenLegal_iff len).1 hi
    exact (decode_eq_absorb_iff ..).2 ⟨hop, hres, hlegal, hlen, rfl⟩
  | finalize => exact (decode_eq_finalize_iff ..).2 fields_encodeWord_finalize

/-- A word that decodes has the fields of the word of its command, and they are all its bits. -/
theorem encodeWord_of_decode {word : CmdWord} {data : Word512} {i : Instr} (h : decode word data = .ok i) :
    encodeWord i = word := by
  cases i with
  | init w =>
    obtain ⟨hop, hres, hw⟩ := (decode_eq_init_iff ..).1 h
    obtain ⟨hop', hres', hw'⟩ := fields_encodeWord_init w
    have hbit : (encodeWord (.init w)).extractLsb' 4 1 = word.extractLsb' 4 1 :=
      BitVec.eq_of_getLsbD_eq fun j hj => by
        obtain rfl : j = 0 := by omega
        simpa [wField] using hw'.trans hw.symm
    exact (eq_iff_fields (operand := 1) (reserved := 27) rfl ..).2 ⟨hop'.trans hop.symm, hbit, hres'.trans hres.symm⟩
  | absorb len d =>
    obtain ⟨hop, hres, -, hlen, -⟩ := (decode_eq_absorb_iff ..).1 h
    obtain ⟨hop', hres', hlen'⟩ := fields_encodeWord_absorb len d
    exact (eq_iff_fields (operand := 7) (reserved := 21) rfl ..).2
      ⟨hop'.trans hop.symm, hlen'.trans hlen.symm, hres'.trans hres.symm⟩
  | finalize =>
    obtain ⟨hop, hres⟩ := (decode_eq_finalize_iff ..).1 h
    obtain ⟨hop', hres'⟩ := fields_encodeWord_finalize
    exact (eq_iff_fields (operand := 0) (reserved := 28) rfl ..).2
      ⟨hop'.trans hop.symm, Subsingleton.elim _ _, hres'.trans hres.symm⟩

/-- OP 2 decodes to an ABSORB alone, which carries the data of the transfer. -/
theorem encodeData_of_decode {word : CmdWord} {data : Word512} {i : Instr} (h : decode word data = .ok i)
    (hop : opField word = 2) : encodeData i = data := by
  cases i with
  | init w => exact absurd (hop.symm.trans ((decode_eq_init_iff ..).1 h).1) (by decide)
  | absorb len d =>
    obtain ⟨-, -, -, -, hdata⟩ := (decode_eq_absorb_iff ..).1 h
    exact hdata.symm
  | finalize => exact absurd (hop.symm.trans ((decode_eq_finalize_iff ..).1 h).1) (by decide)

/-- Settles O2: the three facts about a word that decodes. -/
theorem encodeInvertsDecode : Obligations.EncodeInvertsDecode := fun _ _ _ h =>
  ⟨wellFormed_of_decode h, encodeWord_of_decode h, encodeData_of_decode h⟩

/-- Settles O5: the decoder evaluated on each word, the data left open. -/
theorem printedWordsDecode : Obligations.PrintedWordsDecode := fun _ => ⟨rfl, rfl, rfl, rfl, rfl, rfl, rfl, rfl⟩

/-! ### ABSORBN -/

theorem message_append (cs ds : List Instr) : message (cs ++ ds) = message cs ++ message ds := by
  induction cs with
  | nil => rfl
  | cons i rest ih => cases i <;> simp [message, ih]

theorem toNat_ofNat_length {bytes : List Byte} (h : bytes.length ≤ 64) : (BitVec.ofNat 7 bytes.length).toNat = bytes.length := by
  rw [BitVec.toNat_ofNat, Nat.mod_eq_of_lt (by omega)]

/-- The ABSORB of at most 64 bytes is legal. -/
theorem isLegalAbsorb_absorbOf {bytes : List Byte} (h : bytes.length ≤ 64) : isLegalAbsorb (absorbOf bytes) = true :=
  (isLegalAbsorb_iff _).2 ⟨_, _, rfl, (toNat_ofNat_length h).le.trans h⟩

/-- The ABSORB of at most 64 bytes carries them (`30_encoding.md` R54). -/
theorem message_absorbOf {bytes : List Byte} (h : bytes.length ≤ 64) : message [absorbOf bytes] = bytes := by
  rw [absorbOf, message, message, List.append_nil]
  refine List.ext_getElem (by rw [length_messageBytes, toNat_ofNat_length h]) fun j hj hj' => ?_
  simp [messageBytes, messageByte, byte_ofByteLanes _ j (by omega), hj']

/-- Chunk k of a byte list. -/
def chunk (bytes : List Byte) (k : Nat) : List Byte := (bytes.drop (64 * k)).take 64

/-- The bytes behind the last whole chunk. -/
def chunkRest (bytes : List Byte) : List Byte := bytes.drop (64 * (bytes.length / 64))

theorem length_chunk {bytes : List Byte} {k : Nat} (h : k < bytes.length / 64) : (chunk bytes k).length = 64 := by
  rw [chunk, List.length_take, List.length_drop]
  omega

theorem length_chunkRest (bytes : List Byte) : (chunkRest bytes).length = bytes.length % 64 := by
  rw [chunkRest, List.length_drop]
  omega

/-- ABSORBN over the chunks and the rest. -/
theorem absorbN_eq (bytes : List Byte) :
    absorbN bytes = (List.range (bytes.length / 64)).map (fun k => absorbOf (chunk bytes k)) ++
      if bytes.length % 64 = 0 then [] else [absorbOf (chunkRest bytes)] := rfl

/-- The ABSORBs of the first k whole chunks carry the first 64 k bytes. -/
theorem message_absorbOf_chunks (bytes : List Byte) (k : Nat) :
    message ((List.range k).map fun i => absorbOf (chunk bytes i)) = bytes.take (64 * k) := by
  induction k with
  | zero => rfl
  | succ k ih =>
    have hchunk : (chunk bytes k).length ≤ 64 := List.length_take_le ..
    rw [List.range_succ, List.map_append, List.map_singleton, message_append, ih, message_absorbOf hchunk, Nat.mul_succ,
      List.take_add, chunk]

theorem message_absorbN (bytes : List Byte) : message (absorbN bytes) = bytes := by
  have hrest : message (if bytes.length % 64 = 0 then [] else [absorbOf (chunkRest bytes)]) = chunkRest bytes := by
    have hlen := length_chunkRest bytes
    split
    next h => exact (List.eq_nil_of_length_eq_zero (hlen.trans h)).symm
    next h => exact message_absorbOf (by omega)
  rw [absorbN_eq, message_append, message_absorbOf_chunks, hrest, chunkRest, List.take_append_drop]

theorem isLegalAbsorb_of_mem_absorbN {bytes : List Byte} {i : Instr} (hi : i ∈ absorbN bytes) : isLegalAbsorb i = true := by
  rw [absorbN_eq, List.mem_append] at hi
  obtain hi | hi := hi
  · obtain ⟨k, -, rfl⟩ := List.mem_map.1 hi
    exact isLegalAbsorb_absorbOf (List.length_take_le ..)
  · obtain rfl : i = absorbOf (chunkRest bytes) := by
      split at hi
      · cases hi
      · exact List.mem_singleton.1 hi
    exact isLegalAbsorb_absorbOf (by rw [length_chunkRest]; omega)

/-- The ABSORB of a whole chunk is an `ABSORB 64`. -/
theorem absorbN_getElem? {bytes : List Byte} {k : Nat} (hk : k < bytes.length / 64) :
    ∃ data, (absorbN bytes)[k]? = some (.absorb 64 data) := by
  have hchunk : absorbOf (chunk bytes k) = .absorb 64 (ofByteLanes fun j => (chunk bytes k).getD j 0) := by
    rw [absorbOf, length_chunk hk]
    rfl
  refine ⟨_, Eq.trans ?_ (congrArg some hchunk)⟩
  rw [absorbN_eq, List.getElem?_append_left (by simpa using hk), List.getElem?_map, List.getElem?_range hk, Option.map_some]

/-- Settles O7: the bytes carried, the legality of each ABSORB, their number, and the whole chunks. -/
theorem absorbnCarriesItsBytes : Obligations.AbsorbnCarriesItsBytes := by
  refine fun bytes => ⟨message_absorbN bytes, fun _ => isLegalAbsorb_of_mem_absorbN, ?_, fun _ => absorbN_getElem?⟩
  rw [absorbN_eq, List.length_append, List.length_map, List.length_range, apply_ite List.length]
  rfl

end Sys2Proof.Machine
end

section
/-! PROOFS. More rules of `41_compression_g.md` and `70_reset_and_hazards.md`: the structure of the tables (O17) and the work of a
command (O19). -/

namespace Sys2Proof.Machine

/-! ### The tables -/

/-- The place of a byte in the table PI, read row by row (`41_compression_g.md` R77). -/
def sboxInverse (v : Byte) : Byte := BitVec.ofNat 8 (piRows.flatten.idxOf v)

theorem sboxInverse_sbox : Function.LeftInverse sboxInverse sbox := by
  have h : ∀ k : Fin 256, sboxInverse (sbox (BitVec.ofFin k)) = BitVec.ofFin k := by decide +kernel
  exact fun v => h v.toFin

/-- Settles O17: PI has a left inverse, and the rows of A are compared byte by byte. -/
theorem tablesHaveTheirStructure : Obligations.TablesHaveTheirStructure :=
  ⟨fun _ _ h => sboxInverse_sbox.injective h, by decide +kernel⟩

/-! ### The work per command -/

/-- Each inner round applies LPSX twice, once to the key and once to the state. -/
theorem gRoundsCounted_eq (cs : List Word512) (key st : Word512) (c : Nat) :
    gRoundsCounted cs key st c = (gRounds cs key st, c + 2 * cs.length) := by
  induction cs generalizing key st c with
  | nil => rfl
  | cons r rs ih =>
    rw [gRoundsCounted, ih, gRounds, List.length_cons]
    exact Prod.ext rfl (by simp only [lpsxCounted]; omega)

/-- Two LPSX before the eleven inner rounds, and one for the last key (`70_reset_and_hazards.md` R133). -/
theorem gCounted_eq (h n m : Word512) (c : Nat) : gCounted h n m c = (g h n m, c + 25) := by
  simp only [gCounted, lpsxCounted, gRoundsCounted_eq, length_innerConstants]
  rfl

theorem compressCounted_eq (m : Word512) (s : State) (c : Nat) : compressCounted m s c = (compress m s, c + 1) := rfl

/-- ABSORB calls g once when its bytes fill a block, and not at all otherwise. -/
theorem absorbCounted_eq (len : Nat) (data : Word512) (s : State) (c : Nat) :
    absorbCounted len data s c = (absorbBytes len data s, if 64 ≤ s.fill.toNat + len then c + 1 else c) := by
  have hfill := s.fill.isLt
  by_cases hd : s.fill.toNat = 0 ∧ len = 64
  · rw [absorbCounted, absorbBytes, if_pos hd, if_pos hd, if_pos (by omega), compressCounted_eq]
  · rw [absorbCounted, absorbBytes, if_neg hd, if_neg hd, absorbBuffered]
    by_cases hfull : 64 ≤ s.fill.toNat + len
    · have htake : s.fill.toNat + min (64 - s.fill.toNat) len = 64 := by omega
      simp only [if_pos htake, if_pos hfull, compressCounted_eq]
    · have htake : s.fill.toNat + min (64 - s.fill.toNat) len ≠ 64 := by omega
      simp only [if_neg htake, if_neg hfull]

/-- Settles O19: g and ABSORB by their counts; FINALIZE's three calls stand in its pseudocode. -/
theorem workPerCommandIsFixed : Obligations.WorkPerCommandIsFixed :=
  ⟨gCounted_eq, fun len data s c _ => absorbCounted_eq len data s c, fun _ _ => rfl⟩

end Sys2Proof.Machine
end

section
/-! PROOFS. The step: the host input it takes (O42, O43, `42_context_commands.md` R81), its end with BUSY = 0 (O44), and the order of
the inputs (O45, `20_memory.md` R40). -/

namespace Sys2Proof.Machine

/-! ### What is left of the host inputs -/

/-- A state that writing its own fields does not change holds the values written. -/
theorem State.ownFields_of_eq_withOwnFields {b d : Nat} {l : List HostInput} {t : State} (h : t = t.withOwnFields b l d) :
    t.busyLeft = b ∧ t.inputs = l ∧ t.draws = d :=
  ⟨(congrArg State.busyLeft h :), (congrArg State.inputs h :), (congrArg State.draws h :)⟩

/-- A command leaves the model's own fields: writing them as they are before it writes them so after it. -/
theorem exec_keeps_ownFields {i : Instr} {s t : State} (h : exec i s = .next t) :
    t.busyLeft = s.busyLeft ∧ t.inputs = s.inputs ∧ t.draws = s.draws :=
  State.ownFields_of_eq_withOwnFields
    (Host.Outcome.next.inj (h.symm.trans (exec_withOwnFields s.busyLeft s.inputs s.draws h)))

theorem acceptCommand_keeps_ownFields {word : CmdWord} {data : Word512} {s t : State}
    (h : acceptCommand word data s = .next t) : t.busyLeft = s.busyLeft ∧ t.inputs = s.inputs ∧ t.draws = s.draws :=
  State.ownFields_of_eq_withOwnFields
    (Host.Outcome.next.inj (h.symm.trans (acceptCommand_withOwnFields s.busyLeft s.inputs s.draws h)))

/-- A host input ends with BUSY = 0 and leaves the inputs behind it pending. -/
theorem takeInput_ends_ready {i : HostInput} {s t : State} (h : takeInput i s = .next t) :
    t.busyLeft = 0 ∧ t.inputs = s.inputs := by
  obtain ⟨-, hreset⟩ | ⟨word, data, -, haccept⟩ := takeInput_cases i s
  · cases h.symm.trans hreset
    exact ⟨rfl, rfl⟩
  · obtain ⟨hbusy, hinputs, -⟩ := acceptCommand_keeps_ownFields (haccept.symm.trans h)
    exact ⟨hbusy, hinputs⟩

/-- What a host input does to the registers does not depend on the inputs behind it. -/
theorem takeInput_with_inputs {i : HostInput} {s t : State} (l : List HostInput) (h : takeInput i s = .next t) :
    takeInput i { s with inputs := l } = .next { t with inputs := l } := by
  cases i with
  | reset =>
    cases h
    rfl
  | command word data =>
    obtain ⟨hbusy, -, hdraws⟩ := acceptCommand_keeps_ownFields (s := awaitReady s) h
    have hsame : t.withOwnFields 0 l s.draws = { t with inputs := l } := by
      rw [State.withOwnFields, hbusy, hdraws, awaitReady_busyLeft, awaitReady_draws]
    exact hsame ▸ acceptCommand_withOwnFields (s := awaitReady s) 0 l s.draws h

/-! ### One step -/

/-- With an input pending the step takes it. -/
theorem step_of_inputs_cons {s : State} {i : HostInput} {rest : List HostInput} (h : s.inputs = i :: rest) :
    step s = takeInput i { s with inputs := rest } := by
  obtain ⟨hnil, -⟩ | ⟨i', rest', hcons, hstep⟩ := step_cases s
  · cases h.symm.trans hnil
  · cases h.symm.trans hcons
    exact hstep

/-- A pending command is one accepted transfer once BUSY has fallen. -/
theorem step_of_command {s : State} {word : CmdWord} {data : Word512} {rest : List HostInput}
    (h : s.inputs = .command word data :: rest) :
    step s = acceptCommand word data { s with inputs := rest, busyLeft := 0 } := step_of_inputs_cons h

theorem awaitReady_of_not_busy {s : State} (h : s.busy = false) : awaitReady s = s := by
  have hleft : s.busyLeft = 0 := by simpa [State.busy] using h
  rw [awaitReady, ← hleft]

/-- With nothing pending and BUSY = 0 the step holds the state (`42_context_commands.md` R104). -/
theorem step_of_no_input {s : State} (h : s.inputs = []) (hb : s.busy = false) : step s = .next s := by
  obtain ⟨-, hstep⟩ | ⟨i, rest, hcons, -⟩ := step_cases s
  · rw [hstep, awaitReady_of_not_busy hb]
  · cases h.symm.trans hcons

/-- Every step answers a next state, with BUSY = 0 and the first pending input gone. -/
theorem step_next (s : State) : ∃ t, step s = .next t ∧ t.busyLeft = 0 ∧ t.inputs = s.inputs.tail := by
  obtain ⟨hnil, hstep⟩ | ⟨i, rest, hcons, hstep⟩ := step_cases s
  · exact ⟨awaitReady s, hstep, rfl, by rw [awaitReady_inputs, hnil, List.tail_nil]⟩
  · obtain ⟨t, ht⟩ := takeInput_next i { s with inputs := rest }
    obtain ⟨hbusy, hinputs⟩ := takeInput_ends_ready ht
    exact ⟨t, hstep.trans ht, hbusy, by rw [hinputs, hcons, List.tail_cons]⟩

/-- Settles O42: the transfer is accepted as the command it decodes to. -/
theorem stepRunsTheDecodedCommand : Obligations.StepRunsTheDecodedCommand := fun _ _ _ _ _ hin hd =>
  (step_of_command hin).trans (acceptCommand_of_decode_ok _ hd)

/-- Settles O43: the transfer is rejected outside FAULT and ignored in it. -/
theorem stepRaisesTheDecodersMisuse : Obligations.StepRaisesTheDecodersMisuse := fun _ word data _ _ hin hd =>
  ⟨fun hs => (step_of_command hin).trans (acceptCommand_of_decode_error hs hd),
    fun hs => (step_of_command hin).trans (acceptCommand_of_fault word data hs)⟩

/-- Settles O44: every step ends with BUSY = 0, and none pending holds the state. -/
theorem everyStepEndsReady : Obligations.EveryStepEndsReady := by
  refine ⟨fun s => ?_, fun _ => step_of_no_input⟩
  obtain ⟨t, hstep, hbusy, hinputs⟩ := step_next s
  exact ⟨t, hstep, by simp [State.busy, hbusy], by simp [State.cmdReady, State.busy, hbusy], hinputs⟩

/-! ### Many steps -/

theorem core_run_succ {s t : State} (k : Nat) (h : step s = .next t) : core.run (k + 1) s = core.run k t := by
  have hcore : core.step s = .next t := h
  simp only [Host.Core.run, hcore]

/-- Settles O45, by induction on the inputs: each step takes the first of them. -/
theorem stepsTakeInputsInOrder : Obligations.StepsTakeInputsInOrder := by
  intro l rest
  induction l with
  | nil =>
    intro s hin
    cases hin
    exact ⟨s, rfl, rfl, rfl⟩
  | cons i l ih =>
    intro s hin
    obtain ⟨t, ht⟩ := takeInput_next i { s with inputs := l ++ rest }
    obtain ⟨-, hinputs⟩ := takeInput_ends_ready ht
    obtain ⟨u, hrun, htake, hrest⟩ := ih t hinputs
    refine ⟨u, (core_run_succ l.length ((step_of_inputs_cons hin).trans ht)).trans hrun, ?_, hrest⟩
    exact (takeInputs_cons l (takeInput_with_inputs rest ht)).trans htake

end Sys2Proof.Machine
end

section
/-! PROOFS. What the commands write, keep and read, from `42_context_commands.md` and `10_state.md`: the corner cases of ABSORB
(O23), its two paths (O25), the phases and the width (O36), the frames (O37), and what no command reads (O30, O38). -/

namespace Sys2Proof.Machine

/-! ### Staging -/

section
variable (buf : Vector Byte 64) (fill : BitVec 6) (s : State)

@[simp] theorem State.withStaging_h : (s.withStaging buf fill).h = s.h := rfl
@[simp] theorem State.withStaging_n : (s.withStaging buf fill).n = s.n := rfl
@[simp] theorem State.withStaging_sigma : (s.withStaging buf fill).sigma = s.sigma := rfl

/-- Staging what is staged changes nothing. -/
@[simp] theorem State.withStaging_self : s.withStaging s.buf s.fill = s := rfl

end

/-! ### ABSORB at its corners -/

/-- Below a full block ABSORB leaves the accumulators (`42_context_commands.md` R85). -/
theorem absorbBytes_accumulators_of_lt {len : Nat} (data : Word512) {s : State} (h : s.fill.toNat + len < 64) :
    (absorbBytes len data s).h = s.h ∧ (absorbBytes len data s).n = s.n ∧ (absorbBytes len data s).sigma = s.sigma := by
  simp [absorbBytes_append data h]

/-- An ABSORB that completes a block leaves the bytes above it staged, and N counts the block. -/
theorem absorbBytes_of_full {len : Nat} (data : Word512) {s : State} (hl : len ≤ 64) (h : 64 ≤ s.fill.toNat + len) :
    (absorbBytes len data s).fill = BitVec.ofNat 6 (s.fill.toNat + len - 64) ∧ (absorbBytes len data s).n = s.n + 512 := by
  by_cases hf : 0 < s.fill.toNat
  · rw [absorbBytes_flush data hl hf h, State.withStaging_fill, State.withStaging_n]
    exact ⟨rfl, rfl⟩
  · obtain rfl : len = 64 := by omega
    rw [absorbBytes_direct data (by omega), compress_fill, Nat.add_sub_cancel, BitVec.ofNat_toNat, BitVec.setWidth_eq]
    exact ⟨rfl, rfl⟩

/-- No bytes change nothing. -/
theorem absorbBytes_zero (data : Word512) (s : State) : absorbBytes 0 data s = s := by
  rw [absorbBytes_append data (by have := s.fill.isLt; omega), writeBytes_zero, Nat.add_zero, BitVec.ofNat_toNat,
    BitVec.setWidth_eq, State.withStaging_self]

/-- Settles O23: each corner from the effect with no bytes, with a full block, and below one. -/
theorem absorbCornerCases : Obligations.AbsorbCornerCases := by
  intro data s hs
  have hfill := s.fill.isLt
  refine ⟨?_, ⟨_, exec_absorb_of_active data (len := 64) le_rfl hs, ?_⟩, fun len hl hfit => ?_, fun len hl => ?_⟩
  · rw [exec_absorb_of_active data (len := 0) (Nat.zero_le _) hs]
    exact congrArg Host.Outcome.next (absorbBytes_zero data s)
  · obtain ⟨hf, hn⟩ := absorbBytes_of_full data (s := s) (len := 64) le_rfl (Nat.le_add_left ..)
    rw [Nat.add_sub_cancel, BitVec.ofNat_toNat, BitVec.setWidth_eq] at hf
    exact ⟨hf, hn⟩
  · obtain ⟨hf, hn⟩ := absorbBytes_of_full data (s := s) hl.le hfit.ge
    rw [hfit] at hf
    exact ⟨_, exec_absorb_of_active data hl.le hs, hf, hn⟩
  · obtain ⟨-, -, -, -, -, -, hn⟩ := absorbBytes_frame len.toNat data s hl
    exact ⟨_, exec_absorb_of_active data hl hs, hn, absorbBytes_accumulators_of_lt data⟩

/-- A write over the whole buffer is the bytes of the word written. -/
theorem writeBytes_whole (buf : Vector Byte 64) (data : Word512) : writeBytes buf 0 64 (messageByte data) = toBytes data :=
  Vector.ext fun j hj => by
    rw [writeBytes_getElem, if_pos ⟨Nat.zero_le j, by omega⟩, toBytes_getElem, messageByte, Nat.sub_zero]

/-- Settles O25: on an empty buffer the buffered path stages the whole block and compresses it. -/
theorem directAndBufferedPathsAgree : Obligations.DirectAndBufferedPathsAgree := by
  intro data s hs hf
  have hzero : s.fill.toNat = 0 := by rw [hf]; rfl
  refine ⟨compress data s, ?_, rfl, ?_⟩
  · rw [exec_absorb_of_active data (len := 64) le_rfl hs]
    exact congrArg Host.Outcome.next (absorbBytes_direct data hzero)
  · rw [absorbBuffered, hzero]
    simp only [Nat.sub_zero, Nat.min_self, Nat.zero_add, Nat.sub_self, if_pos, writeBytes_whole, fromBytes_toBytes,
      writeBytes_zero]
    rw [compress, hf]
    rfl

/-! ### Phases and width -/

/-- ABSORB's effect keeps the width and the phase. -/
theorem absorbBytes_w256_phase {len : Nat} (data : Word512) (s : State) (hl : len ≤ 64) :
    (absorbBytes len data s).w256 = s.w256 ∧ (absorbBytes len data s).phase = s.phase := by
  obtain ⟨hw, hp, -⟩ := absorbBytes_frame len data s hl
  exact ⟨hw, hp⟩

/-- Settles O36, case by case of what a command can do: only INIT leads into ACTIVE or writes W256, only FINALIZE leads into
DONE. -/
theorem onlyInitOpensAndOnlyFinalizeCloses : Obligations.OnlyInitOpensAndOnlyFinalizeCloses := by
  intro i s t h
  obtain ⟨hs, rfl⟩ | ⟨-, c, -, rfl⟩ | ⟨-, w, rfl, rfl⟩ | ⟨hs, len, data, rfl, hl, rfl⟩ | ⟨hs, rfl, rfl⟩ := exec_cases h
  · exact ⟨fun h h' => absurd h h', fun h h' => absurd h h', fun h => absurd rfl h, by simp [hs]⟩
  · exact ⟨nofun, nofun, fun h => absurd rfl h, nofun⟩
  · exact ⟨nofun, fun _ _ => ⟨w, rfl⟩, fun _ => ⟨w, rfl⟩, nofun⟩
  · obtain ⟨hw, hp⟩ := absorbBytes_w256_phase data s hl
    rw [hp, hw, hs]
    exact ⟨nofun, fun _ h => absurd rfl h, fun h => absurd rfl h, nofun⟩
  · exact ⟨fun _ _ => ⟨rfl, hs⟩, nofun, fun h => absurd rfl h, nofun⟩

/-! ### Frames -/

/-- An illegal LEN, the one ill-formed command, raises BAD_LENGTH outside FAULT. -/
theorem exec_of_illFormed {i : Instr} {s : State} (hi : i.wellFormed = false) (hs : s.phase ≠ .fault) :
    exec i s = .next (raiseMisuse .badLength s) := by
  cases i with
  | init w => cases hi
  | absorb len data => exact exec_absorb_of_badLength data ((lenLegal_eq_false_iff len).1 hi) hs
  | finalize => cases hi

/-- The state is the same but for what the fault step writes. -/
def IgnoredOrMisused (s t : State) : Prop := t = s ∨ ∃ c, t = raiseMisuse c s

/-- Neither being ignored nor a misuse touches the context (`60_exceptions.md` R110, R111). -/
theorem IgnoredOrMisused.context {s t : State} (h : IgnoredOrMisused s t) :
    t.w256 = s.w256 ∧ t.h = s.h ∧ t.n = s.n ∧ t.sigma = s.sigma ∧ t.buf = s.buf ∧ t.fill = s.fill := by
  obtain rfl | ⟨c, rfl⟩ := h
  · exact ⟨rfl, rfl, rfl, rfl, rfl, rfl⟩
  · exact ⟨rfl, rfl, rfl, rfl, rfl, rfl⟩

/-- ABSORB and FINALIZE have their effect in ACTIVE with a legal LEN, and are ignored or misused otherwise. -/
theorem exec_cases_of_ne_init {i : Instr} {s t : State} (h : exec i s = .next t) (hne : ∀ w, i ≠ .init w) :
    (s.phase = .active ∧ i.wellFormed = true ∧ t = commandEffect i s) ∨
      (¬(s.phase = .active ∧ i.wellFormed = true) ∧ IgnoredOrMisused s t) := by
  by_cases hrun : s.phase = .active ∧ i.wellFormed = true
  · exact .inl ⟨hrun.1, hrun.2, Host.Outcome.next.inj (h.symm.trans (exec_of_active hrun.2 hrun.1))⟩
  · refine .inr ⟨hrun, ?_⟩
    obtain ⟨-, rfl⟩ | ⟨-, c, -, rfl⟩ | ⟨-, w, hi, -⟩ | ⟨hs, len, data, rfl, hl, -⟩ | ⟨hs, rfl, -⟩ := exec_cases h
    · exact .inl rfl
    · exact .inr ⟨c, rfl⟩
    · exact absurd hi (hne w)
    · exact absurd ⟨hs, (lenLegal_iff len).2 hl⟩ hrun
    · exact absurd ⟨hs, rfl⟩ hrun

/-- INIT does not write CAUSE (`42_context_commands.md` section 3). -/
theorem exec_init_cause {w : Bool} {s t : State} (h : exec (.init w) s = .next t) : t.cause = s.cause := by
  obtain ⟨-, e⟩ | ⟨-, e⟩ := execInit_cases w s <;> cases h.symm.trans e <;> rfl

/-- ABSORB writes the bytes behind the staged ones, and those that begin the next block, alone. -/
theorem absorbBytes_buf_of_not_written {len j : Nat} (data : Word512) {s : State} (hl : len ≤ 64) (hj : j < 64)
    (hstaged : ¬(s.fill.toNat ≤ j ∧ j < s.fill.toNat + len)) (hnext : ¬j + 64 < s.fill.toNat + len) :
    (absorbBytes len data s).buf[j] = s.buf[j] := by
  obtain ⟨_, _, e⟩ | ⟨hroom, -⟩ | ⟨hf, hfull, -⟩ := absorbBytes_cases len data s hl
  · rw [e, compress_buf]
  · rw [absorbBytes_append data hroom, State.withStaging_buf, writeBytes_getElem, if_neg hstaged]
  · rw [absorbBytes_flush data hl hf hfull, State.withStaging_buf, writeBytes_getElem, if_neg (by omega), completedBuffer,
      writeBytes_getElem, if_neg (by omega)]

/-- The frame of ABSORB (`42_context_commands.md` section 4, "State written"). -/
theorem exec_absorb_frame {len : BitVec 7} {data : Word512} {s t : State} (h : exec (.absorb len data) s = .next t) :
    t.w256 = s.w256 ∧
    (s.phase = .active → len.toNat ≤ 64 → t.phase = s.phase ∧ t.cause = s.cause) ∧
    (s.fill.toNat + len.toNat < 64 → t.h = s.h ∧ t.n = s.n ∧ t.sigma = s.sigma) ∧
    (s.phase ≠ .active ∨ 64 < len.toNat →
      t.h = s.h ∧ t.n = s.n ∧ t.sigma = s.sigma ∧ t.buf = s.buf ∧ t.fill = s.fill) ∧
    ∀ j (hj : j < 64),
      ¬(s.fill.toNat ≤ j ∧ j < s.fill.toNat + len.toNat) → ¬(j + 64 < s.fill.toNat + len.toNat) →
        t.buf[j] = s.buf[j] := by
  have hlegal : (Instr.absorb len data).wellFormed = true ↔ len.toNat ≤ 64 := lenLegal_iff len
  obtain ⟨hs, hwf, rfl⟩ | ⟨hnot, hkept⟩ := exec_cases_of_ne_init h nofun
  · have hl := hlegal.1 hwf
    obtain ⟨hw, hp, hc, -⟩ := absorbBytes_frame len.toNat data s hl
    exact ⟨hw, fun _ _ => ⟨hp, hc⟩, absorbBytes_accumulators_of_lt data,
      fun h => absurd h (not_or.2 ⟨not_not.2 hs, hl.not_gt⟩), fun j hj => absorbBytes_buf_of_not_written data hl hj⟩
  · obtain ⟨hw, hh, hn, hsigma, hbuf, hfill⟩ := hkept.context
    exact ⟨hw, fun hs hl => absurd ⟨hs, hlegal.2 hl⟩ hnot, fun _ => ⟨hh, hn, hsigma⟩,
      fun _ => ⟨hh, hn, hsigma, hbuf, hfill⟩, fun j hj _ _ => by rw [hbuf]⟩

/-- The frame of FINALIZE (`42_context_commands.md` section 5, "State written"). -/
theorem exec_finalize_frame {s t : State} (h : exec .finalize s = .next t) :
    t.w256 = s.w256 ∧ (s.phase = .active → t.cause = s.cause) ∧
    (s.phase ≠ .active →
      t.h = s.h ∧ t.n = s.n ∧ t.sigma = s.sigma ∧ t.buf = s.buf ∧ t.fill = s.fill) ∧
    ∀ j (hj : j < 64), j < s.fill.toNat → t.buf[j] = s.buf[j] := by
  obtain ⟨hs, -, rfl⟩ | ⟨hnot, hkept⟩ := exec_cases_of_ne_init h nofun
  · refine ⟨rfl, fun _ => rfl, absurd hs, fun j hj hlow => ?_⟩
    rw [commandEffect, finalizeContext_buf, padBuffer_getElem _ _ j hj, if_pos hlow]
  · obtain ⟨hw, hh, hn, hsigma, hbuf, hfill⟩ := hkept.context
    exact ⟨hw, fun hs => absurd ⟨hs, rfl⟩ hnot, fun _ => ⟨hh, hn, hsigma, hbuf, hfill⟩, fun j hj _ => by rw [hbuf]⟩

/-- Settles O37: the frame of each command. -/
theorem commandsLeaveTheRestUnchanged : Obligations.CommandsLeaveTheRestUnchanged :=
  ⟨fun _ _ _ => exec_keeps_ownFields, fun _ _ _ => exec_init_cause, fun _ _ _ _ => exec_absorb_frame,
    fun _ _ => exec_finalize_frame⟩

/-! ### What no command reads -/

/-- Settles O38: the model's own fields are written through every command. -/
theorem commandsReadNoClock : Obligations.CommandsReadNoClock := fun _ _ _ b d l h => exec_withOwnFields b l d h

/-- A relation between two states of one phase that holds of them as they are, after a misuse and after the command's effect, holds
of what the command answers from them. -/
theorem exec_related {R : State → State → Prop} {i : Instr} {s t : State} (hphase : s.phase = t.phase) (hsame : R s t)
    (hmisuse : ∀ c, R (raiseMisuse c s) (raiseMisuse c t))
    (heffect : i.wellFormed = true → R (commandEffect i s) (commandEffect i t)) :
    ∃ s' t', exec i s = .next s' ∧ exec i t = .next t' ∧ R s' t' := by
  by_cases hs : s.phase = .fault
  · exact ⟨s, t, exec_of_fault i hs, exec_of_fault i (hphase ▸ hs), hsame⟩
  · have ht : t.phase ≠ .fault := hphase ▸ hs
    cases hi : i.wellFormed with
    | false => exact ⟨_, _, exec_of_illFormed hi hs, exec_of_illFormed hi ht, hmisuse .badLength⟩
    | true =>
      refine ⟨_, _, exec_of_wellFormed hi hs, exec_of_wellFormed hi ht, ?_⟩
      rw [hphase]
      cases phaseMisuse i t.phase with
      | none => exact heffect hi
      | some c => exact hmisuse c

/-- A state with W256 given and every other register kept. -/
def State.withWidth (b : Bool) (s : State) : State := { s with w256 := b }

/-- ABSORB's effect does not read the width (`42_context_commands.md` R103). -/
theorem absorbBytes_withWidth (len : Nat) (data : Word512) (b : Bool) (s : State) :
    absorbBytes len data (s.withWidth b) = (absorbBytes len data s).withWidth b := by
  simp only [absorbBytes, absorbBuffered, apply_ite (State.withWidth b)]
  rfl

/-- Only INIT reads or writes the width. -/
theorem commandEffect_withWidth {i : Instr} (hne : ∀ w, i ≠ .init w) (b : Bool) (s : State) :
    commandEffect i (s.withWidth b) = (commandEffect i s).withWidth b := by
  cases i with
  | init w => exact absurd rfl (hne w)
  | absorb len data => exact absorbBytes_withWidth len.toNat data b s
  | finalize => rfl

/-- ABSORB and FINALIZE keep the width. -/
theorem exec_w256_of_ne_init {i : Instr} {s t : State} (h : exec i s = .next t) (hne : ∀ w, i ≠ .init w) :
    t.w256 = s.w256 := by
  obtain ⟨-, hwf, rfl⟩ | ⟨-, hkept⟩ := exec_cases_of_ne_init h hne
  · cases i with
    | init w => exact absurd rfl (hne w)
    | absorb len data => exact (absorbBytes_w256_phase data s ((lenLegal_iff len).1 hwf)).1
    | finalize => rfl
  · obtain ⟨hw, -⟩ := hkept.context
    exact hw

/-- Settles O30: every command but INIT keeps the width, and answers from the state of another width the same but for it. -/
theorem widthsDifferOnlyAtTheEnds : Obligations.WidthsDifferOnlyAtTheEnds := by
  intro i s t b hne h
  obtain ⟨s', t', hs', ht', rfl⟩ := exec_related (R := fun s t => t = s.withWidth b) (i := i) (s := s)
    (t := s.withWidth b) rfl rfl
    (fun _ => rfl) fun _ => commandEffect_withWidth hne b s
  cases h.symm.trans hs'
  exact ⟨exec_w256_of_ne_init h hne, ht'⟩

end Sys2Proof.Machine
end

section
/-! PROOFS. The hash of a message (O52), and the digest bytes FINALIZE shows (O29), from `42_context_commands.md` R90 to R93. -/

namespace Sys2Proof.Machine

/-! ### The digest bytes -/

/-- Byte j of the upper half, zero-extended, is byte 32+j of the word (`40_word_adder.md` R57). -/
theorem byte_setWidth_upperHalf (w : Word512) (j : Nat) :
    byte ((upperHalf w).setWidth 512) j = byte w (32 + j) := by
  rw [setWidth_upperHalf]
  refine BitVec.eq_of_getLsbD_eq fun i hi => ?_
  rw [getLsbD_byte, getLsbD_byte, BitVec.getLsbD_ushiftRight, show 256 + (8 * j + i) = 8 * (32 + j) + i by omega]

/-- The digest bytes are the upper bytes of h, as many as the width has (`42_context_commands.md` R92). -/
theorem digestBytes_eq_upper_bytes {s : State} (hv : s.dvalid = true) :
    s.digestBytes = (List.range s.digestLength).map fun j => byte s.h (64 - s.digestLength + j) := by
  rw [digestBytes_of_dvalid hv, State.digestLength]
  cases hw : s.w256 with
  | false =>
    rw [digest_of_dvalid_of_w512 hv hw]
    exact List.map_congr_left fun j _ => congrArg (byte s.h) (Nat.zero_add j).symm
  | true =>
    rw [digest_of_dvalid_of_w256 hv hw]
    exact List.map_congr_left fun j _ => byte_setWidth_upperHalf s.h j

/-- The digest bytes are those of the hash once h is the hash value of the width. -/
theorem digestBytes_eq_hashBytes {s : State} {bytes : List Byte} (hv : s.dvalid = true)
    (hh : s.h = hashValue s.w256 bytes) : s.digestBytes = hashBytes s.w256 bytes := by
  rw [digestBytes_eq_upper_bytes hv, State.digestLength, hashBytes, hh]
  cases s.w256 with
  | false => exact List.map_congr_left fun j _ => congrArg _ (Nat.zero_add j)
  | true => rfl

/-- Settles O29: FINALIZE makes the digest valid, and with no host input the step holds a state with BUSY = 0. -/
theorem finalizeShowsTheUpperBytes : Obligations.FinalizeShowsTheUpperBytes := by
  intro s hs hb
  have hbusy : s.busy = false := by simp [State.busy, hb]
  exact ⟨finalizeContext s, exec_finalize_of_active hs, digestBytes_eq_upper_bytes (dvalid_finalizeContext hbusy),
    fun hin => step_of_no_input hin hbusy⟩

/-! ### The chaining value -/

/-- COMPRESS over the blocks from a fresh context is the chain from the initial value (`42_context_commands.md` R82, R98). -/
theorem compressBlocks_h (w : Bool) (s : State) (bytes : List Byte) (k : Nat) :
    (compressBlocks bytes k (openContext w s)).h = chainBlocks (if w then iv256 else iv512) bytes k := by
  induction k with
  | zero => rfl
  | succ k ih =>
    have hn : (compressBlocks bytes k (openContext w s)).n = BitVec.ofNat 512 (512 * k) :=
      (compressBlocks_n ..).trans (BitVec.zero_add _)
    rw [compressBlocks, compress_h, ih, hn, chainBlocks]

/-- COMPRESS over any blocks leaves the width and BUSY. -/
theorem compressBlocks_frame (bytes : List Byte) (k : Nat) (s : State) :
    (compressBlocks bytes k s).w256 = s.w256 ∧ (compressBlocks bytes k s).busyLeft = s.busyLeft := by
  induction k with
  | zero => exact ⟨rfl, rfl⟩
  | succ k ih => rwa [compressBlocks, compress_w256, compress_busyLeft]

section
variable {w : Bool} {s t : State} {bytes : List Byte} (h : Absorbed (openContext w s) bytes t)
include h

theorem Absorbed.h_of_fresh : t.h = chainBlocks (if w then iv256 else iv512) bytes (bytes.length / 64) :=
  (congrArg State.h h.registers).trans (compressBlocks_h ..)

/-- The width is that of INIT, and BUSY is as it was. -/
theorem Absorbed.frame_of_fresh : t.w256 = w ∧ t.busyLeft = s.busyLeft := by
  obtain ⟨hw, hb⟩ := compressBlocks_frame bytes (bytes.length / 64) (openContext w s)
  exact ⟨(congrArg State.w256 h.registers).trans hw, (congrArg State.busyLeft h.registers).trans hb⟩

/-- FINALIZE folds the padded block, the length and the checksum into the chaining value (`42_context_commands.md` R90). -/
theorem Absorbed.finalizeContext_h_of_fresh : (finalizeContext t).h = hashValue w bytes := by
  rw [finalizeContext_h, h.finalizeContext_n_of_fresh, finalizeContext_sigma, h.paddedBlock, h.h_of_fresh, h.n_of_fresh,
    h.sigma_of_fresh]
  rfl

end

/-- Settles O52: INIT and the ABSORBs take the message into a fresh context, and FINALIZE ends it with the hash value. -/
theorem coreComputesTheHash : Obligations.CoreComputesTheHash := by
  intro w cs s hs hb hcs
  obtain ⟨t, hrun, ht, hfinal⟩ := runCommands_init_absorbs w hs hcs
  obtain ⟨hw, hbusy⟩ := ht.frame_of_fresh
  have hh : (finalizeContext t).h = hashValue w (message cs) := ht.finalizeContext_h_of_fresh
  have hv : (finalizeContext t).dvalid = true := dvalid_finalizeContext (by rwa [State.busy, hbusy])
  refine ⟨finalizeContext t, ?_, rfl, hh, ?_⟩
  · rw [← List.cons_append, runCommands_append [.finalize] hrun, runCommands_cons [] hfinal, runCommands]
  · subst hw
    exact digestBytes_eq_hashBytes hv hh

end Sys2Proof.Machine
end

section
/-! PROOFS. The invariant of the registers (O46, O47). -/

namespace Sys2Proof.Machine

/-! ### What each operation does to the invariant -/

/-- The bit counts of a byte and of a block divide 2^512, so that N keeps whole bytes and blocks when it wraps. -/
theorem byte_and_block_dvd : 8 ∣ 2 ^ 512 ∧ 512 ∣ 2 ^ 512 :=
  ⟨pow_dvd_pow 2 (show 3 ≤ 512 by decide), pow_dvd_pow 2 (show 9 ≤ 512 by decide)⟩

section
variable {w k : Nat} (hk : k ∣ 2 ^ w)
include hk

theorem toNat_ofNat_mod_eq_zero {m : Nat} (hm : m % k = 0) : (BitVec.ofNat w m).toNat % k = 0 := by
  rw [BitVec.toNat_ofNat, Nat.mod_mod_of_dvd _ hk, hm]

theorem toNat_add_mod_eq_zero {x y : BitVec w} (hx : x.toNat % k = 0) (hy : y.toNat % k = 0) :
    (x + y).toNat % k = 0 := by
  rw [BitVec.toNat_add, Nat.mod_mod_of_dvd _ hk, Nat.add_mod, hx, hy, Nat.zero_mod]

end

/-- A reset leaves CAUSE, the context and N at 0 (`70_reset_and_hazards.md` R122). -/
theorem inv_takeReset (s : State) : (takeReset s).Inv := by
  obtain ⟨h8, -⟩ := byte_and_block_dvd
  exact ⟨rfl, fun _ => ⟨rfl, rfl, rfl, rfl, rfl, rfl⟩, toNat_ofNat_mod_eq_zero h8 rfl, nofun, nofun⟩

/-- Outside FAULT the invariant gives CAUSE = 0. -/
theorem State.Inv.cause_eq_zero {s : State} (h : s.Inv) (hs : s.phase ≠ .fault) : s.cause = 0 := by
  obtain ⟨hcause, -⟩ := h
  rwa [State.CauseMatchesPhase, if_neg hs] at hcause

/-- The fault step records one of the codes 1 to 5 and leaves N (`60_exceptions.md` R106, R110). -/
theorem State.Inv.raiseMisuse {s : State} (h : s.Inv) (c : Misuse) : (raiseMisuse c s).Inv := by
  obtain ⟨-, -, hbytes, -⟩ := h
  exact ⟨misuseCode_bounds c, nofun, hbytes, nofun, nofun⟩

/-- INIT opens a context with N = 0. -/
theorem State.Inv.openContext {s : State} (h : s.Inv) (hs : s.phase ≠ .fault) (w : Bool) : (openContext w s).Inv := by
  obtain ⟨h8, h512⟩ := byte_and_block_dvd
  exact ⟨h.cause_eq_zero hs, nofun, toNat_ofNat_mod_eq_zero h8 rfl, fun _ => toNat_ofNat_mod_eq_zero h512 rfl, nofun⟩

/-- ABSORB in ACTIVE stays there, and N grows by one whole block at most (`42_context_commands.md` R98). -/
theorem State.Inv.absorbBytes {s : State} (h : s.Inv) (hs : s.phase = .active) {len : Nat} (data : Word512)
    (hl : len ≤ 64) : (absorbBytes len data s).Inv := by
  have hc : s.cause = 0 := h.cause_eq_zero (by simp [hs])
  obtain ⟨-, -, -, hblocks, -⟩ := h
  obtain ⟨-, hphase, hcause, -, -, -, hn⟩ := absorbBytes_frame len data s hl
  obtain ⟨-, h512⟩ := byte_and_block_dvd
  have hwhole : (Machine.absorbBytes len data s).n.toNat % 512 = 0 := by
    obtain hn | hn := hn <;> rw [hn]
    · exact hblocks hs
    · exact toNat_add_mod_eq_zero (y := BitVec.ofNat 512 512) h512 (hblocks hs) (toNat_ofNat_mod_eq_zero h512 rfl)
  rw [hs] at hphase
  rw [State.Inv, State.CauseMatchesPhase, State.IdleIsFresh, State.CounterIsWhole, hphase, hcause]
  exact ⟨hc, nofun, by omega, fun _ => hwhole, nofun⟩

/-- FINALIZE adds whole bytes to N and empties the buffer (`42_context_commands.md` R89). -/
theorem State.Inv.finalizeContext {s : State} (h : s.Inv) (hs : s.phase = .active) : (finalizeContext s).Inv := by
  have hc : s.cause = 0 := h.cause_eq_zero (by simp [hs])
  obtain ⟨-, -, hbytes, -⟩ := h
  obtain ⟨h8, -⟩ := byte_and_block_dvd
  have hbits : (bitLength s.fill).toNat % 8 = 0 := toNat_ofNat_mod_eq_zero h8 (Nat.mul_mod_right ..)
  exact ⟨hc, nofun, toNat_add_mod_eq_zero h8 hbytes hbits, nofun, fun _ => rfl⟩

/-! ### Every step -/

theorem State.Inv.exec {i : Instr} {s t : State} (h : s.Inv) (he : exec i s = .next t) : t.Inv := by
  obtain ⟨-, rfl⟩ | ⟨-, c, -, rfl⟩ | ⟨hs, w, -, rfl⟩ | ⟨hs, len, data, -, hl, rfl⟩ | ⟨hs, -, rfl⟩ := exec_cases he
  · exact h
  · exact h.raiseMisuse c
  · exact h.openContext hs w
  · exact h.absorbBytes hs data hl
  · exact h.finalizeContext hs

theorem State.Inv.acceptCommand {word : CmdWord} {data : Word512} {s t : State} (h : s.Inv)
    (ha : acceptCommand word data s = .next t) : t.Inv := by
  obtain ⟨i, -, he⟩ | ⟨c, -, he⟩ := acceptCommand_cases word data s
  · exact h.exec (he.symm.trans ha)
  · cases he.symm.trans ha
    by_cases hs : s.phase = .fault
    · rwa [unlessFault_of_fault _ hs]
    · rw [unlessFault_of_ne _ hs]
      exact h.raiseMisuse c

theorem State.Inv.takeInput {i : HostInput} {s t : State} (h : s.Inv) (hi : takeInput i s = .next t) : t.Inv := by
  obtain ⟨-, he⟩ | ⟨word, data, -, he⟩ := takeInput_cases i s
  · cases he.symm.trans hi
    exact inv_takeReset s
  · exact State.Inv.acceptCommand (s := awaitReady s) h (he.symm.trans hi)

/-- Settles O46: a step holds the registers or takes a host input, and both keep the invariant. -/
theorem everyStepKeepsTheInvariant : Obligations.EveryStepKeepsTheInvariant := by
  intro s t h hstep
  obtain ⟨-, he⟩ | ⟨i, rest, -, he⟩ := step_cases s
  · cases he.symm.trans hstep
    exact h
  · exact State.Inv.takeInput (s := { s with inputs := rest }) h (he.symm.trans hstep)

/-- Settles O47: the reset of the reset state is the reset state. -/
theorem resetHasTheInvariant : Obligations.ResetHasTheInvariant := by
  have hreset : takeReset .reset = .reset := rfl
  rw [Obligations.ResetHasTheInvariant, ← hreset]
  exact inv_takeReset .reset

end Sys2Proof.Machine
end

section
/-! PROOFS. The bytes of the staging buffer at and above fill do not show at any output (O48, `10_state.md` R13). -/

namespace Sys2Proof.Machine

/-! ### States equal but for the buffer's tail -/

/-- Two states equal but for the tail are one state with another buffer, equal to its own below fill. -/
theorem sameButTail_iff {s t : State} :
    SameButTail s t ↔ ∃ buf, t = s.withStaging buf s.fill ∧ ∀ j (hj : j < 64), j < s.fill.toNat → s.buf[j] = buf[j] := by
  refine ⟨fun ⟨ht, hvalid⟩ => ⟨t.buf, ht.symm, fun j hj => hvalid ⟨j, hj⟩⟩, ?_⟩
  rintro ⟨buf, rfl, hvalid⟩
  exact ⟨rfl, fun j => hvalid j j.isLt⟩

theorem SameButTail.refl (s : State) : SameButTail s s := ⟨rfl, fun _ _ => rfl⟩

theorem SameButTail.phase {s t : State} (h : SameButTail s t) : s.phase = t.phase := by
  obtain ⟨buf, rfl, -⟩ := sameButTail_iff.1 h
  rfl

/-- No output shows the tail. -/
theorem SameButTail.outputs {s t : State} (h : SameButTail s t) : s.outputs = t.outputs := by
  obtain ⟨buf, rfl, -⟩ := sameButTail_iff.1 h
  rfl

/-! ### What each operation does to them -/

theorem SameButTail.raiseMisuse {s t : State} (h : SameButTail s t) (c : Misuse) :
    SameButTail (raiseMisuse c s) (raiseMisuse c t) := by
  obtain ⟨buf, rfl, hvalid⟩ := sameButTail_iff.1 h
  exact sameButTail_iff.2 ⟨buf, rfl, hvalid⟩

theorem SameButTail.awaitReady {s t : State} (h : SameButTail s t) : SameButTail (awaitReady s) (awaitReady t) := by
  obtain ⟨buf, rfl, hvalid⟩ := sameButTail_iff.1 h
  exact sameButTail_iff.2 ⟨buf, rfl, hvalid⟩

/-- Reset forgets the buffer. -/
theorem SameButTail.takeReset {s t : State} (h : SameButTail s t) : SameButTail (takeReset s) (takeReset t) := by
  obtain ⟨buf, rfl, -⟩ := sameButTail_iff.1 h
  exact .refl _

/-- INIT forgets the buffer. -/
theorem SameButTail.openContext {s t : State} (h : SameButTail s t) (w : Bool) :
    SameButTail (openContext w s) (openContext w t) := by
  obtain ⟨buf, rfl, -⟩ := sameButTail_iff.1 h
  exact .refl _

section
variable {s : State} {buf : Vector Byte 64} (hvalid : ∀ j (hj : j < 64), j < s.fill.toNat → s.buf[j] = buf[j])
  (data : Word512)
include hvalid

/-- The valid bytes fix the completed buffer. -/
theorem completedBuffer_withStaging : completedBuffer data (s.withStaging buf s.fill) = completedBuffer data s := by
  rw [completedBuffer, completedBuffer, State.withStaging_buf, State.withStaging_fill]
  refine Vector.ext fun j hj => ?_
  rw [writeBytes_getElem, writeBytes_getElem]
  split
  next => rfl
  next h => exact (hvalid j hj (by omega)).symm

/-- Bytes that do not fill the buffer join the valid bytes. -/
theorem sameButTail_absorbBytes_append {len : Nat} (hroom : s.fill.toNat + len < 64) :
    SameButTail (absorbBytes len data s) (absorbBytes len data (s.withStaging buf s.fill)) := by
  rw [absorbBytes_append data hroom, absorbBytes_append data (s := s.withStaging buf s.fill) hroom]
  refine sameButTail_iff.2 ⟨writeBytes buf s.fill.toNat len (messageByte data), ?_, fun j hj hlow => ?_⟩
  · rw [State.withStaging_withStaging, State.withStaging_withStaging, State.withStaging_buf, State.withStaging_fill,
      State.withStaging_fill]
  rw [State.withStaging_fill, toNat_fill_of_lt hroom] at hlow
  rw [State.withStaging_buf, writeBytes_getElem, writeBytes_getElem]
  split
  next => rfl
  next h => exact hvalid j hj (by omega)

/-- A flush overwrites the tail, so that nothing is left of it. -/
theorem absorbBytes_flush_withStaging {len : Nat} (hl : len ≤ 64) (hf : 0 < s.fill.toNat)
    (hfull : 64 ≤ s.fill.toNat + len) : absorbBytes len data s = absorbBytes len data (s.withStaging buf s.fill) := by
  rw [absorbBytes_flush data hl hf hfull, absorbBytes_flush data (s := s.withStaging buf s.fill) hl hf hfull,
    completedBuffer_withStaging hvalid, compress_withStaging, State.withStaging_withStaging, State.withStaging_fill]

end

/-- ABSORB reads the valid bytes alone. -/
theorem SameButTail.absorbBytes {s t : State} (h : SameButTail s t) {len : Nat} (data : Word512) (hl : len ≤ 64) :
    SameButTail (absorbBytes len data s) (absorbBytes len data t) := by
  obtain ⟨buf, rfl, hvalid⟩ := sameButTail_iff.1 h
  obtain ⟨hf, rfl, -⟩ | ⟨hroom, -⟩ | ⟨hf, hfull, -⟩ := absorbBytes_cases len data s hl
  · rw [absorbBytes_direct data hf, absorbBytes_direct data (s := s.withStaging buf s.fill) hf]
    exact sameButTail_iff.2 ⟨buf, rfl, hvalid⟩
  · exact sameButTail_absorbBytes_append hvalid data hroom
  · rw [absorbBytes_flush_withStaging hvalid data hl hf hfull]
    exact .refl _

theorem SameButTail.commandEffect {s t : State} (h : SameButTail s t) {i : Instr} (hi : i.wellFormed = true) :
    SameButTail (commandEffect i s) (commandEffect i t) := by
  cases i with
  | init w => exact h.openContext w
  | absorb len data => exact h.absorbBytes data ((lenLegal_iff len).1 hi)
  | finalize =>
    rw [Machine.commandEffect, finalizeContext_eq_of_sameButTail h]
    exact .refl _

/-! ### Every host input -/

theorem SameButTail.acceptCommand {s t : State} (h : SameButTail s t) (word : CmdWord) (data : Word512) :
    ∃ s' t', acceptCommand word data s = .next s' ∧ acceptCommand word data t = .next t' ∧ SameButTail s' t' := by
  cases hd : decode word data with
  | ok i =>
    rw [acceptCommand_of_decode_ok s hd, acceptCommand_of_decode_ok t hd]
    exact exec_related h.phase h h.raiseMisuse h.commandEffect
  | error c =>
    by_cases hs : s.phase = .fault
    · exact ⟨s, t, acceptCommand_of_fault word data hs, acceptCommand_of_fault word data (h.phase ▸ hs), h⟩
    · exact ⟨_, _, acceptCommand_of_decode_error hs hd, acceptCommand_of_decode_error (h.phase ▸ hs) hd, h.raiseMisuse c⟩

theorem SameButTail.takeInput {s t : State} (h : SameButTail s t) (i : HostInput) :
    ∃ s' t', takeInput i s = .next s' ∧ takeInput i t = .next t' ∧ SameButTail s' t' := by
  cases i with
  | reset => exact ⟨_, _, rfl, rfl, h.takeReset⟩
  | command word data => exact h.awaitReady.acceptCommand word data

/-- Settles O48, by induction on the inputs: each keeps the states equal but for the tail, which no output shows. -/
theorem bufferTailIsUnobservable : Obligations.BufferTailIsUnobservable := by
  intro l
  induction l with
  | nil => exact fun s t h => ⟨s, t, rfl, rfl, h, h.outputs⟩
  | cons i l ih =>
    intro s t h
    obtain ⟨s₁, t₁, hs, ht, h₁⟩ := h.takeInput i
    rw [takeInputs_cons l hs, takeInputs_cons l ht]
    exact ih s₁ t₁ h₁

end Sys2Proof.Machine
end
